-- ==== Sys2Proof/Word.lean ====
section
/-! DEFINITION. The words of fixed width (spec/00_scope.md R10, R11). The widths of the registers are parameters (R8), so those
values are numbers (log entry 23). -/

namespace Sys2Proof

/-- A control word, `ev_ctl[7:0]` (R70). -/
abbrev CtlWord := BitVec 8

/-- The set of diagnostic events of one operation (R77). -/
abbrev DiagBits := BitVec 3

end Sys2Proof
end

