-- ==== Sys2Proof/Config.lean ====
section
/-! DEFINITION. The implementation parameters of spec/00_scope.md R8 and the free values of the model.

The host's interface gives `step` no argument beside the state, so the parameters ride in the state as ONE constant record
(`Sys2Proof.Machine.State.params`, log entry 1). No operation changes it, and every statement quantifies over it. -/

namespace Sys2Proof

/-- The parameters of R8, all thirteen, and that of I6. Every natural number is a legal threshold (R9). -/
structure Params where
  /-- `MIN_INTERVAL`, µs: the smallest accepted edge-to-edge interval. -/
  minInterval : Nat
  /-- `MAX_INTERVAL`, µs: the largest interval that is not "too long". -/
  maxInterval : Nat
  /-- `MIN_IDLE_BETWEEN_BYTES`, µs: below this gap a start candidate inside the band is spurious. -/
  minIdleBetweenBytes : Nat
  /-- `TS_WIDTH`: bits of the timestamp bus and of `tlast` (OPEN, D4). -/
  tsWidth : Nat
  /-- `TS_UNIT`, in ns: the unit that the timestamps and the thresholds count in. No operation reads it: the rules compare
  numbers (R247). It says what a count means as time (`elapsedNs` in Safety.lean). -/
  tsUnitNs : Nat
  /-- `POS_WIDTH`: bits of the `position` register (D6). -/
  posWidth : Nat
  /-- `BYTE_WIDTH`: bits of the accumulator and of a delivered byte. -/
  byteWidth : Nat
  /-- `DATA_POSITIONS`: data bits per frame. `position` 1 to this number are the data positions. -/
  dataPositions : Nat
  /-- `RESET_LINE_PRESENT` (OPEN, D17). -/
  resetLinePresent : Bool
  /-- `RESET_IDLE_LEVEL`: the electrical level of IDLE; ACTIVE is the other level (OPEN, D17). -/
  resetIdleLevel : Bool
  /-- `RESET_IDLE_HOLD_MIN`, ms. No operation reads it: a duty of the control context (R245). -/
  resetIdleHoldMinMs : Nat
  /-- `RESET_ACTIVE_HOLD_MIN`, ms. No operation reads it: a duty of the control context (R245). -/
  resetActiveHoldMinMs : Nat
  /-- `NUM_CHANNELS` (OPEN, at least 1, D21). -/
  numChannels : Nat
  /-- `FRAME_LOSS_EDGE_IS_START` of spec/93_implementation_defined.md I6. `true` is the spec's decision (R115, D11);
  `false` is the other reading that I6 lets a model cover: the edge is consumed after `resync()`. -/
  frameLossEdgeIsStart : Bool
  deriving DecidableEq, Repr

/-- The values the spec fixes or recommends, and for the OPEN parameters those of the conventions of spec/95_test_vectors.md §0.
DESIGN CHOICE for the OPEN ones (log entry 2). -/
def Params.source : Params where
  minInterval := 13
  maxInterval := 120
  minIdleBetweenBytes := 200
  tsWidth := 32
  tsUnitNs := 1000
  posWidth := 4
  byteWidth := 8
  dataPositions := 8
  resetLinePresent := false
  resetIdleLevel := false
  resetIdleHoldMinMs := 800
  resetActiveHoldMinMs := 200
  numChannels := 1
  frameLossEdgeIsStart := true

/-- The parameters are those of a block: there is a channel (R8), a data position, a `position` register that can hold every
position (D6), and an accumulator with a bit for each data position (R132). The last three are read from the rules for values
other than the spec's (log entry 23). -/
def Params.legal (p : Params) : Bool :=
  decide (1 ≤ p.numChannels) && decide (1 ≤ p.dataPositions) && decide (p.dataPositions < 2 ^ p.posWidth) &&
    decide (p.dataPositions ≤ p.byteWidth)

/-- Free value (U3, log entry 7): what the `out_byte` lines carry during operation `k` when `out_valid` = 0, of which the
port keeps `BYTE_WIDTH` bits. -/
opaque Config.idleOutByte : Nat → Nat

/-- Free value (U3, log entry 7): what the `verdict` lines carry during operation `k` when `verdict_valid` = 0. -/
opaque Config.idleVerdict : Nat → BitVec 2

/-- Free value (U3, log entry 7): what the `diag_bits` lines carry during operation `k` when `diag_valid` = 0. -/
opaque Config.idleDiagBits : Nat → DiagBits

end Sys2Proof
end

