-- ==== Sys2Proof/Syntax.lean ====
section
/-! DEFINITION. The operations of the block (spec/30_encoding.md R70, R71), which stand in the place of instructions, and the
words one operation is presented as. -/

namespace Sys2Proof

/-- One transaction as the environment presents it (R70): the control word, the timestamp operand and the channel select.
`time` and `chan` are what the agent drives; the bus widths are applied by the decoder. -/
structure Presented where
  /-- `ev_ctl[7:0]`. -/
  ctl  : CtlWord
  /-- `ev_time` (R72); a free-running microsecond count, of which the bus carries the low `TS_WIDTH` bits. -/
  time : Nat
  /-- `ev_chan` (R83); absent, so not looked at, when there is one channel. -/
  chan : Nat
  deriving DecidableEq, Repr

/-- The rows of spec/opcode_table.json. Every operation names the channel it acts on (R83). `ign` is the field
`ev_ctl[4:3]` of the operations that ignore it (R74): it is kept so that an encoding can be given back bit for bit. -/
inductive Instr where
  /-- Row `NOP` (R160). -/
  | nop (chan : Nat) (ign : BitVec 2)
  /-- Row `EDGE` (R100): the timestamp, the sampled data bit and whether the sample is valid (R72, R73). -/
  | edge (chan : Nat) (time : Nat) (d : Bool) (dOk : Bool)
  /-- Row `OPEN` (R161). -/
  | openCh (chan : Nat) (ign : BitVec 2)
  /-- Row `CLOSE` (R165). -/
  | closeCh (chan : Nat) (ign : BitVec 2)
  /-- Row `HOLD_DONE` (R168). -/
  | holdDone (chan : Nat) (ign : BitVec 2)
  /-- Row `(reserved)` (R75): a control word that names no operation. -/
  | reserved (chan : Nat) (ctl : CtlWord)
  deriving DecidableEq, Repr

/-- The channel an operation is addressed to (R83). -/
def Instr.chan : Instr → Nat
  | .nop c _ => c
  | .edge c _ _ _ => c
  | .openCh c _ => c
  | .closeCh c _ => c
  | .holdDone c _ => c
  | .reserved c _ => c

/-- The mnemonic of the operation's row of spec/opcode_table.json. -/
def Instr.mnemonic : Instr → String
  | .nop _ _ => "NOP"
  | .edge _ _ _ _ => "EDGE"
  | .openCh _ _ => "OPEN"
  | .closeCh _ _ => "CLOSE"
  | .holdDone _ _ => "HOLD_DONE"
  | .reserved _ _ => "(reserved)"

end Sys2Proof
end

