-- ==== Sys2Proof/Decode.lean ====
section
/-! DEFINITION. Decoding and encoding of operations (spec/30_encoding.md R70-R75, R81-R83; spec/opcode_table.json). -/

namespace Sys2Proof

/-! ### The fields of `ev_ctl` (R70) -/

/-- `op` = `ev_ctl[2:0]`. -/
def ctlOp (ctl : CtlWord) : BitVec 3 := ctl.extractLsb' 0 3

/-- `d` = `ev_ctl[3]`. -/
def ctlD (ctl : CtlWord) : Bool := ctl.getLsbD 3

/-- `d_ok` = `ev_ctl[4]`. -/
def ctlDOk (ctl : CtlWord) : Bool := ctl.getLsbD 4

/-- `ev_ctl[4:3]`, the field that every operation but EDGE ignores (R74). -/
def ctlIgn (ctl : CtlWord) : BitVec 2 := ctl.extractLsb' 3 2

/-- `rsv` = `ev_ctl[7:5]`. -/
def ctlRsv (ctl : CtlWord) : BitVec 3 := ctl.extractLsb' 5 3

/-- The rows of spec/opcode_table.json as (mnemonic, match, mask): the word selects the row if `word & mask = match`. -/
def opcodeRows : List (String × CtlWord × CtlWord) :=
  [ ("NOP", 0x00#8, 0xE7#8),
    ("EDGE", 0x01#8, 0xE7#8),
    ("OPEN", 0x02#8, 0xE7#8),
    ("CLOSE", 0x03#8, 0xE7#8),
    ("HOLD_DONE", 0x04#8, 0xE7#8) ]

/-- R75: an operation is reserved if `op` is 5, 6 or 7, or if `rsv` is not 0 (whatever `op` is). -/
def reservedCtl (ctl : CtlWord) : Bool := decide (5 ≤ (ctlOp ctl).toNat) || decide (ctlRsv ctl ≠ 0)

/-! ### The operands beside the control word -/

/-- R72: the `ev_time` bus carries the low `TS_WIDTH` bits of the clock, `T mod 2^TS_WIDTH`. -/
def busTime (p : Params) (time : Nat) : Nat := time % 2 ^ p.tsWidth

/-- R83: with one channel `ev_chan` is absent and the operation acts on it, channel 0. -/
def busChan (p : Params) (chan : Nat) : Nat := if 1 < p.numChannels then chan else 0

/-- The decoder: total on every presented transaction (R81). The reserved test comes first (R75, R204 step 1); a reserved
word decodes to the row that says so, and to nothing else. -/
def decode (p : Params) (o : Presented) : Instr :=
  if ctlRsv o.ctl ≠ 0 then .reserved (busChan p o.chan) o.ctl
  else match (ctlOp o.ctl).toNat with
    | 0 => .nop (busChan p o.chan) (ctlIgn o.ctl)
    | 1 => .edge (busChan p o.chan) (busTime p o.time) (ctlD o.ctl) (ctlDOk o.ctl)
    | 2 => .openCh (busChan p o.chan) (ctlIgn o.ctl)
    | 3 => .closeCh (busChan p o.chan) (ctlIgn o.ctl)
    | 4 => .holdDone (busChan p o.chan) (ctlIgn o.ctl)
    | _ => .reserved (busChan p o.chan) o.ctl

/-! ### Encoding -/

/-- `ev_ctl` = `rsv ++ x ++ op` with `rsv` = 0 (R70, R71); `x` is the field `ev_ctl[4:3]`. -/
def packCtl (x : BitVec 2) (op : BitVec 3) : CtlWord := 0#3 ++ x ++ op

/-- The control word of an operation (R70, R71, R73; the encodings of spec/opcode_table.json). -/
def encodeCtl : Instr → CtlWord
  | .nop _ ign => packCtl ign 0#3
  | .edge _ _ d dOk => packCtl (BitVec.ofBool dOk ++ BitVec.ofBool d) 1#3
  | .openCh _ ign => packCtl ign 2#3
  | .closeCh _ ign => packCtl ign 3#3
  | .holdDone _ ign => packCtl ign 4#3
  | .reserved _ ctl => ctl

/-- The words of a well-formed operation. An operation that ignores `ev_time` writes it 0 (R82). -/
def encode : Instr → Presented
  | .nop c ign => ⟨encodeCtl (.nop c ign), 0, c⟩
  | .edge c t d dOk => ⟨encodeCtl (.edge c t d dOk), t, c⟩
  | .openCh c ign => ⟨encodeCtl (.openCh c ign), 0, c⟩
  | .closeCh c ign => ⟨encodeCtl (.closeCh c ign), 0, c⟩
  | .holdDone c ign => ⟨encodeCtl (.holdDone c ign), 0, c⟩
  | .reserved c ctl => ⟨encodeCtl (.reserved c ctl), 0, c⟩

/-! ### Words numbered as spec/opcode_table.json numbers them -/

/-- A transaction from the bits of a table row: `ev_ctl` is the first byte, and whatever lies above it is `ev_time`.
The table gives `ev_time` and `ev_chan` no bits, so they are 0 for every row of it. -/
def tableWord (nbits w : Nat) : Presented where
  ctl := BitVec.ofNat 8 (w % 2 ^ nbits)
  time := w % 2 ^ nbits / 256
  chan := 0

/-- What the decoder reads from the bits of a table row, at the parameters of `Params.source`. -/
def decodeTableWord (nbits w : Nat) : Option Instr := some (decode Params.source (tableWord nbits w))

/-! ### The trace notation of R82 -/

/-- R82's operations are written with the ignored bits 0, and a failed sample with `d` = 0. -/
def canonicalCtl : Instr → CtlWord
  | .nop _ _ => 0x00#8
  | .edge _ _ d dOk => if dOk then (if d then 0x19#8 else 0x11#8) else 0x01#8
  | .openCh _ _ => 0x02#8
  | .closeCh _ _ => 0x03#8
  | .holdDone _ _ => 0x04#8
  | .reserved _ ctl => ctl

/-- One line of R82's trace notation. A reserved word has no notation there and is written as a number. -/
def traceLine (i : Instr) : String :=
  "ch" ++ toString i.chan ++ ": " ++
    match i with
    | .edge _ t d dOk =>
      "EDGE t=" ++ toString t ++ (if dOk then (if d then " d=1" else " d=0") else " fail")
    | .reserved _ ctl => "(reserved) " ++ toString ctl.toNat
    | .nop _ _ => "NOP"
    | .openCh _ _ => "OPEN"
    | .closeCh _ _ => "CLOSE"
    | .holdDone _ _ => "HOLD_DONE"

/-- R82's pseudo-operation `FRAME t0=<T0> dt=<D> byte=<B>`: the start edge, then the `DATA_POSITIONS` data bits, least
significant first, `D` µs apart. -/
def frame (p : Params) (c t0 dt b : Nat) : List Instr :=
  .edge c (busTime p t0) false true ::
    (List.range p.dataPositions).map fun k => .edge c (busTime p (t0 + (k + 1) * dt)) (b.testBit k) true

end Sys2Proof
end

