-- ==== Sys2Proof/Machine/State.lean ====
section
/-! DEFINITION. The state of the block (spec/10_state.md R20-R34) and of a run (R31, R32, R240, R241), as plain data. -/

namespace Sys2Proof.Machine

/-- The lifecycle phase (R25). Its 2-bit encoding is `Phase.code` in Machine/Flags.lean. -/
inductive Phase where
  /-- The source's `Closed`. -/
  | closed
  /-- Inside `open` step 2: the reset line is held IDLE. -/
  | rstIdle
  /-- Inside `open` step 2: the reset line is held ACTIVE. -/
  | rstActive
  /-- The source's `Open`. -/
  | opened
  deriving DecidableEq, Repr

/-- The logical level of the reset line (R26). -/
inductive Level where
  | idle
  | active
  deriving DecidableEq, Repr

/-- The classifier's verdict on one edge (R76). Its code is `Verdict.code` in Machine/Flags.lean. -/
inductive Verdict where
  | normal
  | noise
  | spuriousStart
  | frameLoss
  deriving DecidableEq, Repr

/-- The reasons of `refuse(reason)` (R240). -/
inductive RefuseReason where
  /-- R75. -/
  | reservedEncoding
  /-- R83. -/
  | badChannel
  /-- R171. -/
  | openNotClosed
  /-- R171. -/
  | closeNotOpen
  /-- R171. -/
  | holdDoneOutOfPhase
  deriving DecidableEq, Repr

/-- The registers of one instance of the block (R20). -/
structure Regs where
  /-- The next expected bit slot (R21), a `POS_WIDTH`-bit number: 0 is `Start`, 1 to 8 are `Data0` to `Data7`, and 9 to 15 are
  defect values. -/
  position   : Nat
  /-- The accumulator (R22), a `BYTE_WIDTH`-bit number. -/
  acc        : Nat
  /-- Whether `tlast` holds a time (R14, R23). -/
  tlastValid : Bool
  /-- The time of the last accepted edge, a `TS_WIDTH`-bit number of µs (R23). -/
  tlast      : Nat
  /-- Whether EDGEs are delivered to the classifier (R24). -/
  armed      : Bool
  /-- The lifecycle phase (R25). -/
  phase      : Phase
  /-- The logical level of the reset line (R26); no rule reads it without `RESET_LINE_PRESENT`. -/
  resetOut   : Level
  deriving DecidableEq, Repr

/-- One channel: an independent instance of the block with the two sequences its observers see (R41, R66). -/
structure Channel where
  regs : Regs
  /-- `OUT`: every byte emitted, in order (R31). Nothing in the block reads it. -/
  out  : List Nat
  /-- `DIAG`: (operation index, `diag_bits`), one pair for each operation that set `diag_valid` (R32). -/
  diag : List (Nat × DiagBits)
  deriving DecidableEq, Repr

/-- The outputs one operation sets for itself (R30); the default is "inactive". -/
structure Signals where
  /-- The delivered byte, when there is one: `out_valid` and `out_byte`. -/
  byte     : Option Nat := none
  /-- The verdict, when there is one: `verdict_valid` and `verdict`. -/
  verdict  : Option Verdict := none
  /-- The set of diagnostic events; `diag_valid` is "not 0" (R77). -/
  diagBits : DiagBits := 0#3
  deriving DecidableEq, Repr

/-- What an operation answers for the registers of the instance it acts on. -/
inductive Reply where
  /-- The operation is carried out: the registers and signals it leaves. -/
  | done (r : Regs) (sig : Signals)
  /-- `refuse(why)` (R240). -/
  | refuse (why : RefuseReason)
  deriving DecidableEq, Repr

/-- The outputs of one operation of the run (R30, R241). -/
structure OpOutputs where
  /-- The channel the operation was addressed to. -/
  chan      : Nat
  byte      : Option Nat
  verdict   : Option Verdict
  diagBits  : DiagBits
  /-- `irq_enable` after the operation; none if the operation addressed no existing channel. -/
  irqEnable : Option Bool
  /-- The electrical level of `reset_line` after the operation; none without a line or without a channel. -/
  resetLine : Option Bool
  deriving DecidableEq, Repr

end Sys2Proof.Machine

namespace Sys2Proof.Machine

/-- The whole machine: the channels, what the run has shown so far, and the operations still to be presented. -/
structure State where
  /-- The implementation parameters (R8); constant. -/
  params   : Params
  /-- The channels, number `k` at index `k` (R41). -/
  channels : List Channel
  /-- The outputs of every operation applied so far, oldest first (R241). Its length is the index of the next one. -/
  trace    : List OpOutputs
  /-- The refusal mark of R240, with its reasons, oldest first: the mark is set when this is not empty. -/
  refusals : List RefuseReason
  /-- The operations the environment has still to present, next first (R18, R42). -/
  inputs   : List Presented
  deriving DecidableEq, Repr

/-- The machine's faults: there are none. "No behaviour of the block is modelled as `fault` or `stuck`"
(spec/93_implementation_defined.md §2), so no constructor stands here. Safe. -/
inductive Fault where
  deriving DecidableEq, Repr

/-- The model's own refusals. The block's `refuse(reason)` is no such outcome: it is an effect on the state (R240). -/
inductive Refusal where
  /-- Raised by an arm of Machine/Dispatch.lean whose operation has no meaning yet; no arm is left. Safe. -/
  | notModelled (mnemonic : String)
  deriving DecidableEq, Repr

/-- R34, R230: the registers at power-on. `tlast` and `reset_out` are unspecified there, so they are arguments. -/
def Regs.powerOn (tlast : Nat) (resetOut : Level) : Regs where
  position := 0
  acc := 0
  tlastValid := false
  tlast := tlast
  armed := false
  phase := .closed
  resetOut := resetOut

/-- R34, R230: the machine at power-on, for any parameters and any draw of the two registers that are unspecified there
(U1, U2). `OUT` and `DIAG` are empty and the refusal mark is clear. -/
def State.powerOn (p : Params) (tlast : Nat → Nat) (resetOut : Nat → Level) : State where
  params := p
  channels := (List.range p.numChannels).map fun c =>
    { regs := Regs.powerOn (busTime p (tlast c)) (resetOut c), out := [], diag := [] }
  trace := []
  refusals := []
  inputs := []

/-- The machine right after reset, at the parameters of `Params.source`, with nothing presented yet. DESIGN CHOICE
(log entry 3): `tlast` = 0 and `reset_out` = IDLE, where the spec says "unspecified". -/
def State.reset : State := State.powerOn Params.source (fun _ => 0) (fun _ => .idle)

end Sys2Proof.Machine
end

