-- ==== Sys2Proof/Machine/Flags.lean ====
section
/-! DEFINITION. The block holds no flags (spec/10_state.md R28); this file holds the codes that stand in their place: the
verdicts, the diagnostic bits, the phase code and the line levels, and the ports as their wires carry them (R25, R30, R76, R77). -/

namespace Sys2Proof.Machine

/-- R76: `verdict[1:0]`. -/
def Verdict.code : Verdict → BitVec 2
  | .normal => 0b00#2
  | .noise => 0b01#2
  | .spuriousStart => 0b10#2
  | .frameLoss => 0b11#2

/-- R76, R112: the edges the classifier lets through. -/
def Verdict.accepts : Verdict → Bool
  | .normal => true
  | .noise => false
  | .spuriousStart => false
  | .frameLoss => true

/-- R25: the 2-bit encoding of `phase`. -/
def Phase.code : Phase → BitVec 2
  | .closed => 0#2
  | .rstIdle => 1#2
  | .rstActive => 2#2
  | .opened => 3#2

/-- R77: `diag_bits[0]`. -/
def dgFrameLoss : DiagBits := 0b001#3

/-- R77: `diag_bits[1]`. -/
def dgSampleFail : DiagBits := 0b010#3

/-- R77: `diag_bits[2]`. -/
def dgInvalidState : DiagBits := 0b100#3

/-- R26, R8: the electrical level of a logical level of the reset line. -/
def electricalLevel (p : Params) : Level → Bool
  | .idle => p.resetIdleLevel
  | .active => !p.resetIdleLevel

/-- R30: `reset_line`, present when `RESET_LINE_PRESENT` = 1. -/
def resetLineLevel (p : Params) (l : Level) : Option Bool :=
  if p.resetLinePresent then some (electricalLevel p l) else none

/-! ### The ports as wires (R30). `k` is the operation's index; an inactive data line carries a free value (U3). -/

/-- `out_valid`. -/
def OpOutputs.outValid (o : OpOutputs) : Bool := o.byte.isSome

/-- `out_byte`, `BYTE_WIDTH` wires. -/
def OpOutputs.outByte (p : Params) (k : Nat) (o : OpOutputs) : Nat := o.byte.getD (Config.idleOutByte k) % 2 ^ p.byteWidth

/-- `verdict_valid`. -/
def OpOutputs.verdictValid (o : OpOutputs) : Bool := o.verdict.isSome

/-- `verdict`. -/
def OpOutputs.verdictLines (k : Nat) (o : OpOutputs) : BitVec 2 :=
  match o.verdict with
  | some v => v.code
  | none => Config.idleVerdict k

/-- `diag_valid`: 1 exactly when the set of events is not empty (R77). -/
def OpOutputs.diagValid (o : OpOutputs) : Bool := decide (o.diagBits ≠ 0#3)

/-- `diag_bits`. -/
def OpOutputs.diagLines (k : Nat) (o : OpOutputs) : DiagBits :=
  if o.diagBits ≠ 0#3 then o.diagBits else Config.idleDiagBits k

end Sys2Proof.Machine
end

