-- ==== Sys2Proof/Machine/Operands.lean ====
section
/-! DEFINITION. Operand assembly and the one piece of arithmetic on it (spec/30_encoding.md R72, R80;
spec/40_edge_classifier.md R103). `t_now`, `bit` and `sample_ok` are the operation's own fields: nothing is sign-extended,
scaled or shifted. -/

namespace Sys2Proof.Machine

/-- R103: `delta = (t_now − tlast) mod 2^TS_WIDTH`, computed on the exact difference and reduced at the end. -/
def delta (p : Params) (now last : Nat) : Nat :=
  (((now : Int) - (last : Int)) % ((2 ^ p.tsWidth : Nat) : Int)).toNat

end Sys2Proof.Machine
end

