-- ==== Sys2Proof/Machine/Ops.lean ====
section
/-! DEFINITION. The shared operations: the register writes the rules name, `emit`, `diag` and `refuse` as one transaction
records them, and taking the next operation. The block raises no trap and returns from none (spec/60_exceptions.md R206); what
stands in the place of taking an exception is `State.refuse` (R240) and, inside an EDGE, `Regs.resync` (R130). -/

namespace Sys2Proof.Machine

/-! ### Register writes -/

/-- R130: the frame synchroniser's `resync()`. -/
def Regs.resync (r : Regs) : Regs := { r with position := 0, acc := 0, tlastValid := false }

/-- R162, R166: the state reset inside OPEN (step 1) and CLOSE (step 2). -/
def Regs.initDecoder (r : Regs) : Regs := { r with position := 0, acc := 0, tlastValid := false }

/-- R112: the timestamp update of an accepted edge. -/
def Regs.acceptAt (t : Nat) (r : Regs) : Regs := { r with tlast := t, tlastValid := true }

/-- R132: `acc[position - 1] <- 1` if `bit` = 1; a `bit` of 0 clears nothing. The accumulator has `BYTE_WIDTH` bits. -/
def setDataBit (p : Params) (acc position : Nat) (bit : Bool) : Nat :=
  if bit then acc ||| (2 ^ (position - 1) % 2 ^ p.byteWidth) else acc

/-- R131, R132: `position <- position + 1`, in a register of `POS_WIDTH` bits. With legal parameters it never overflows at a
position below `DATA_POSITIONS` (R133). -/
def Regs.advance (p : Params) (r : Regs) : Regs := { r with position := (r.position + 1) % 2 ^ p.posWidth }

/-! ### What a transaction records -/

/-- The outputs of an operation (R30): its own signals, and the level outputs as the registers stand after it. -/
def outputsOf (p : Params) (c : Nat) (r : Option Regs) (sig : Signals) : OpOutputs where
  chan := c
  byte := sig.byte
  verdict := sig.verdict
  diagBits := sig.diagBits
  irqEnable := r.map fun r => r.armed
  resetLine := r.bind fun r => resetLineLevel p r.resetOut

/-- A channel after operation `k`: `emit` appends to `OUT` (R31, R134), and a non-empty set of diagnostic events is
appended to `DIAG` with the operation's index (R32, R203). -/
def Channel.record (k : Nat) (r : Regs) (sig : Signals) (ch : Channel) : Channel where
  regs := r
  out := ch.out ++ sig.byte.toList
  diag := if sig.diagBits = 0#3 then ch.diag else ch.diag ++ [(k, sig.diagBits)]

/-- The registers of channel `c`, if there is such a channel. -/
def State.regsAt (s : State) (c : Nat) : Option Regs := s.channels[c]?.map fun ch => ch.regs

/-- R240: `refuse(why)`. No register changes, nothing is output, and the mark is set. The level outputs hold their levels. -/
def State.refuse (c : Nat) (why : RefuseReason) (s : State) : State :=
  { s with
    refusals := s.refusals ++ [why]
    trace := s.trace ++ [outputsOf s.params c (s.regsAt c) {}] }

/-- The end of an operation that is carried out on channel `c`: all its writes and outputs at once (R53). -/
def State.commit (c : Nat) (ch : Channel) (r : Regs) (sig : Signals) (s : State) : State :=
  { s with
    channels := s.channels.set c (ch.record s.trace.length r sig)
    trace := s.trace ++ [outputsOf s.params c (some r) sig] }

/-- One transaction (R53): the channel is selected (R83), the operation is applied to its registers, and the answer is
carried out or refused. No other channel is read or written (R41). -/
def State.transact (c : Nat) (f : Regs → Reply) (s : State) : State :=
  match s.channels[c]? with
  | none => s.refuse c .badChannel
  | some ch =>
    match f ch.regs with
    | .refuse why => s.refuse c why
    | .done r sig => s.commit c ch r sig

/-! ### The next operation -/

/-- The next presented operation, decoded, and the machine with it taken from the queue; none when the run is over. -/
def State.fetch (s : State) : Option (Instr × State) :=
  match s.inputs with
  | [] => none
  | o :: rest => some (decode s.params o, { s with inputs := rest })

end Sys2Proof.Machine
end

