-- ==== Sys2Proof/Machine/Accumulator.lean ====
section
/-! DEFINITION. The Bit-Accumulation State Machine, the second stage of EDGE (spec/41_bit_accumulator.md R131-R137). -/

namespace Sys2Proof.Machine

/-- R135: ACCUMULATE. The sample test comes before the dispatch on `position` (D26). The spec's dispatch is written for
`DATA_POSITIONS` = 8; here its cases are 0, the positions below `DATA_POSITIONS`, that position, and all above it (log entry 23),
so it covers every value of the register. -/
def accumulate (p : Params) (bit sampleOk : Bool) (r : Regs) : Regs × Signals :=
  if sampleOk = false then (r.resync, { diagBits := dgSampleFail })
  else if r.position = 0 then (Regs.advance p { r with acc := 0 }, {})
  else if r.position < p.dataPositions then
    (Regs.advance p { r with acc := setDataBit p r.acc r.position bit }, {})
  else if r.position = p.dataPositions then
    ({ r with acc := 0, position := 0 }, { byte := some (setDataBit p r.acc r.position bit) })
  else (r.resync, { diagBits := dgInvalidState })

end Sys2Proof.Machine
end

