-- ==== Sys2Proof/Machine/Classifier.lean ====
section
/-! DEFINITION. The Edge-Interval Classifier, the first stage of EDGE (spec/40_edge_classifier.md R102-R111, R114, R117). -/

namespace Sys2Proof.Machine

/-- R109: the tests in exactly this order. `position` is read only to compare it with 0 (R114); the sample and the
accumulator are not read (R117). -/
def classify (p : Params) (t : Nat) (r : Regs) : Verdict :=
  if r.tlastValid = false then .normal
  else if delta p t r.tlast < p.minInterval then .noise
  else if p.maxInterval < delta p t r.tlast then
    if r.position ≠ 0 then .frameLoss else .normal
  else if r.position = 0 ∧ delta p t r.tlast < p.minIdleBetweenBytes then .spuriousStart
  else .normal

end Sys2Proof.Machine
end

