-- ==== Sys2Proof/Machine/Edge.lean ====
section
/-! DEFINITION. The meaning of EDGE (spec/40_edge_classifier.md R100, R101, R112-R116; spec/60_exceptions.md R204). -/

namespace Sys2Proof.Machine

/-- The state-machine stage of an edge with verdict `v`, run after the diagnostic events `diag` were recorded (R100). -/
def accumulateEdge (p : Params) (v : Verdict) (diag : DiagBits) (bit sampleOk : Bool) (r : Regs) : Reply :=
  .done (accumulate p bit sampleOk r).1
    { byte := (accumulate p bit sampleOk r).2.byte
      verdict := some v
      diagBits := diag ||| (accumulate p bit sampleOk r).2.diagBits }

/-- R105, R138: an edge with the verdict FRAME_LOSS. It resynchronises, is accepted, and is the start bit of a new frame.
With `FRAME_LOSS_EDGE_IS_START` = 0, the other reading of I6, it is consumed after the resynchronisation (log entry 6). -/
def frameLossEdge (p : Params) (t : Nat) (bit sampleOk : Bool) (r : Regs) : Reply :=
  if p.frameLossEdgeIsStart then
    accumulateEdge p .frameLoss dgFrameLoss bit sampleOk (Regs.acceptAt t r.resync)
  else .done (Regs.acceptAt t r.resync) { verdict := some .frameLoss, diagBits := dgFrameLoss }

/-- R100: EDGE on the registers of one channel. -/
def edgeReply (p : Params) (t : Nat) (bit sampleOk : Bool) (r : Regs) : Reply :=
  if r.armed = false then .done r {}
  else match classify p t r with
    | .noise => .done r { verdict := some .noise }
    | .spuriousStart => .done r { verdict := some .spuriousStart }
    | .normal => accumulateEdge p .normal 0#3 bit sampleOk (Regs.acceptAt t r)
    | .frameLoss => frameLossEdge p t bit sampleOk r

/-- EDGE (R100). -/
def execEdge (c t : Nat) (d dOk : Bool) (s : State) : Host.Outcome State Fault Refusal :=
  .next (s.transact c (edgeReply s.params t d dOk))

end Sys2Proof.Machine
end

