-- ==== Sys2Proof/Machine/Lifecycle.lean ====
section
/-! DEFINITION. The meanings of NOP, OPEN, CLOSE and HOLD_DONE (spec/42_lifecycle.md R160-R172). Each ignores
`ev_ctl[4:3]` (spec/30_encoding.md R74). -/

namespace Sys2Proof.Machine

/-- R160: NOP on the registers of one channel. -/
def nopReply (r : Regs) : Reply := .done r {}

/-- R161-R164: OPEN on the registers of one channel. -/
def openReply (p : Params) (r : Regs) : Reply :=
  if r.phase ≠ .closed then .refuse .openNotClosed
  else if p.resetLinePresent then .done { r.initDecoder with resetOut := .idle, phase := .rstIdle } {}
  else .done { r.initDecoder with armed := true, phase := .opened } {}

/-- R165, R166: CLOSE on the registers of one channel. -/
def closeReply (r : Regs) : Reply :=
  if r.phase ≠ .opened then .refuse .closeNotOpen
  else .done { Regs.initDecoder { r with armed := false } with phase := .closed } {}

/-- R168-R170: HOLD_DONE on the registers of one channel. -/
def holdDoneReply (r : Regs) : Reply :=
  match r.phase with
  | .rstIdle => .done { r with resetOut := .active, phase := .rstActive } {}
  | .rstActive => .done { r with resetOut := .idle, armed := true, phase := .opened } {}
  | .closed => .refuse .holdDoneOutOfPhase
  | .opened => .refuse .holdDoneOutOfPhase

/-- NOP (R160). -/
def execNop (c : Nat) (_ign : BitVec 2) (s : State) : Host.Outcome State Fault Refusal :=
  .next (s.transact c nopReply)

/-- OPEN (R161). -/
def execOpen (c : Nat) (_ign : BitVec 2) (s : State) : Host.Outcome State Fault Refusal :=
  .next (s.transact c (openReply s.params))

/-- CLOSE (R165). -/
def execClose (c : Nat) (_ign : BitVec 2) (s : State) : Host.Outcome State Fault Refusal :=
  .next (s.transact c closeReply)

/-- HOLD_DONE (R168). -/
def execHoldDone (c : Nat) (_ign : BitVec 2) (s : State) : Host.Outcome State Fault Refusal :=
  .next (s.transact c holdDoneReply)

end Sys2Proof.Machine
end

