-- ==== Sys2Proof/Machine/Reserved.lean ====
section
/-! DEFINITION. What the machine does with a reserved control word (spec/30_encoding.md R75; spec/70_reset_and_hazards.md
R240). The rule gives it an effect, the refusal mark, and the run goes on (spec/95_test_vectors.md V-ENC-11), so this is a next
state and not a stop (log entry 4). -/

namespace Sys2Proof.Machine

/-- R75: `refuse(reserved_encoding)`. The test is made "before anything else" (R100, R204 step 1), so a reserved word that
also names no channel is refused for this reason (log entry 9). -/
def execReserved (c : Nat) (_ctl : CtlWord) (s : State) : Host.Outcome State Fault Refusal :=
  .next (s.refuse c .reservedEncoding)

end Sys2Proof.Machine
end

