-- ==== Sys2Proof/Machine/Dispatch.lean ====
section
/-! DEFINITION. One arm per row of spec/opcode_table.json. -/

namespace Sys2Proof.Machine

def exec (i : Instr) (s : State) : Host.Outcome State Fault Refusal :=
  match i with
  | .nop c ign => Sys2Proof.Machine.execNop c ign s
  | .edge c t d dOk => Sys2Proof.Machine.execEdge c t d dOk s
  | .openCh c ign => Sys2Proof.Machine.execOpen c ign s
  | .closeCh c ign => Sys2Proof.Machine.execClose c ign s
  | .holdDone c ign => Sys2Proof.Machine.execHoldDone c ign s
  | .reserved c ctl => Sys2Proof.Machine.execReserved c ctl s

end Sys2Proof.Machine
end

