-- ==== Sys2Proof/Machine/Step.lean ====
section
/-! DEFINITION. One step: the next presented operation is applied (spec/20_memory.md R53, R59). -/

namespace Sys2Proof.Machine

/-- One transaction slot. When nothing is left to present the run has ended (R241): the slot leaves the machine as it is
(log entry 5). -/
def step (s : State) : Host.Outcome State Fault Refusal :=
  match s.fetch with
  | none => .next s
  | some (i, s') => exec i s'

/-- The machine with one more operation to present, before all others: the bits `w` of a row of spec/opcode_table.json. -/
def State.withFetchWord (s : State) (nbits w : Nat) : State :=
  { s with inputs := tableWord nbits w :: s.inputs }

end Sys2Proof.Machine
end

