-- ==== Sys2Proof/WellFormed.lean ====
section
/-! DEFINITION. Which terms of `Instr` an encoding of spec/30_encoding.md stands for. The check is about the operands alone:
a channel that does not exist is a legal operand, which the machine refuses (R83). -/

namespace Sys2Proof

/-- R83: with one channel there is no `ev_chan`, so the operand can only be 0. -/
def Params.chanOperandOk (p : Params) (c : Nat) : Bool := decide (1 < p.numChannels) || c == 0

/-- The operands fit their fields: `ev_time` has `TS_WIDTH` bits (R72), and a reserved word is one of R75's. -/
def Instr.wellFormed (p : Params) : Instr → Bool
  | .nop c _ => p.chanOperandOk c
  | .edge c t _ _ => p.chanOperandOk c && decide (t < 2 ^ p.tsWidth)
  | .openCh c _ => p.chanOperandOk c
  | .closeCh c _ => p.chanOperandOk c
  | .holdDone c _ => p.chanOperandOk c
  | .reserved c ctl => p.chanOperandOk c && reservedCtl ctl

end Sys2Proof
end

