-- ==== Sys2Proof/Safety.lean ====
section
/-! DEFINITION. What counts as a good state and a good run, in the terms the claims use: the invariants of
spec/10_state.md §5, the record of a run (R31, R32, R241), the duties of the environment (spec/70_reset_and_hazards.md
R242-R245), and the input sequences the spec names properties of. -/

namespace Sys2Proof.Machine

/-! ### Invariants -/

/-- What holds of the registers of a channel in every reachable state (R23, R25, R26, R35-R39). -/
structure Regs.Inv (p : Params) (r : Regs) : Prop where
  /-- R35. -/
  position_le : r.position ≤ p.dataPositions
  /-- R36. -/
  acc_at_start : r.position = 0 → r.acc = 0
  /-- R37. -/
  acc_lt : 1 ≤ r.position → r.acc < 2 ^ (r.position - 1)
  /-- R38. -/
  absent : r.tlastValid = false → r.position = 0 ∧ r.acc = 0
  /-- R39, first sentence. -/
  armed_iff : r.armed = true ↔ r.phase = .opened
  /-- R39, second sentence. -/
  not_open : r.phase ≠ .opened → r.position = 0 ∧ r.acc = 0 ∧ r.tlastValid = false
  /-- R25: the two phases of the reset pulse occur only with a reset line. -/
  pulse_has_line : r.phase = .rstIdle ∨ r.phase = .rstActive → p.resetLinePresent = true
  /-- R26, R172: the level the reset line holds in each phase but `CLOSED`. -/
  reset_level : p.resetLinePresent = true →
    (r.phase = .rstIdle → r.resetOut = .idle) ∧ (r.phase = .rstActive → r.resetOut = .active) ∧
      (r.phase = .opened → r.resetOut = .idle)
  /-- R23: `tlast` is a `TS_WIDTH`-bit number. -/
  tlast_lt : r.tlast < 2 ^ p.tsWidth

/-- What holds of the machine in every reachable state: its parameters are those of a block (R8), it has `NUM_CHANNELS` channels
(R41), each keeps R35-R39, and what it delivered are `BYTE_WIDTH`-bit bytes (R54). -/
structure State.Inv (s : State) : Prop where
  legal : s.params.legal = true
  channel_count : s.channels.length = s.params.numChannels
  regs : ∀ ch ∈ s.channels, Regs.Inv s.params ch.regs
  out_lt : ∀ ch ∈ s.channels, ∀ b ∈ ch.out, b < 2 ^ s.params.byteWidth

/-! ### The record of a run -/

/-- The bytes that the run delivered on channel `c`, in the order of the operations that delivered them (R31). -/
def bytesOf (c : Nat) (tr : List OpOutputs) : List Nat :=
  tr.filterMap fun e => if e.chan = c then e.byte else none

/-- The pairs (operation index, `diag_bits`) of channel `c`, one for each operation that set `diag_valid` (R32). -/
def diagsOf (c : Nat) (tr : List OpOutputs) : List (Nat × DiagBits) :=
  tr.zipIdx.filterMap fun e => if e.1.chan = c ∧ e.1.diagBits ≠ 0#3 then some (e.2, e.1.diagBits) else none

/-- R31, R32: `OUT` and `DIAG` of every channel are what the operations of the run delivered and reported. -/
structure State.RecordsRun (s : State) : Prop where
  out_eq : ∀ c ch, s.channels[c]? = some ch → ch.out = bytesOf c s.trace
  diag_eq : ∀ c ch, s.channels[c]? = some ch → ch.diag = diagsOf c s.trace

/-- How one operation's outputs move the count of state advances since the last `Start`, the count of R141. Only the
outputs are read: an unarmed channel is at `Start`, an emission and a diagnostic of the state machine return to it, and a frame
loss whose edge is a valid start bit counts one advance. -/
def advance (p : Params) (n : Nat) (e : OpOutputs) : Nat :=
  if e.irqEnable ≠ some true then 0
  else match e.verdict with
    | none => n
    | some .noise => n
    | some .spuriousStart => n
    | some .normal => if e.byte.isSome ∨ e.diagBits ≠ 0#3 then 0 else n + 1
    | some .frameLoss => if p.frameLossEdgeIsStart ∧ e.diagBits = dgFrameLoss then 1 else 0

/-- The count of state advances on channel `c` since its last `Start`, read from the outputs of the run alone (R141). -/
def advancesOf (p : Params) (c : Nat) (tr : List OpOutputs) : Nat :=
  tr.foldl (fun n e => if e.chan = c then advance p n e else n) 0

/-- R141: `position` of every channel is the number of state advances since the last `Start`. -/
def State.CountsAdvances (s : State) : Prop :=
  ∀ c ch, s.channels[c]? = some ch → ch.regs.position = advancesOf s.params c s.trace

/-- R240: a run in which nothing was refused. A run with the mark set satisfies no claim about hardware. -/
abbrev State.Unrefused (s : State) : Prop := s.refusals = []

/-- The observation of a run (R241). -/
structure Observation where
  registers : List Regs
  out       : List (List Nat)
  diag      : List (List (Nat × DiagBits))
  outputs   : List OpOutputs
  refusals  : List RefuseReason
  deriving DecidableEq, Repr

/-- R241: what is observed of a run that ends in `s`. -/
def State.observe (s : State) : Observation where
  registers := s.channels.map fun ch => ch.regs
  out := s.channels.map fun ch => ch.out
  diag := s.channels.map fun ch => ch.diag
  outputs := s.trace
  refusals := s.refusals

/-! ### Running operations in sequence -/

/-- The operations applied one after another, in one order (R59). -/
def runOps : List Instr → State → Host.Outcome State Fault Refusal
  | [], s => .next s
  | i :: rest, s =>
    match exec i s with
    | .next t => runOps rest t
    | .fault f => .fault f
    | .refused r => .refused r

/-- The machine stepped `n` times, as `Host.Core.run` steps it. -/
def runSteps : Nat → State → Host.Outcome State Fault Refusal
  | 0, s => .next s
  | n + 1, s =>
    match step s with
    | .next t => runSteps n t
    | .fault f => .fault f
    | .refused r => .refused r

/-- Valid EDGEs on channel `c`: each pair gives the µs since the edge before it and the sampled bit; the first is measured
from the clock value `t`. The bus carries the clock modulo `2^TS_WIDTH` (R72). -/
def timedEdges (p : Params) (c : Nat) : Nat → List (Nat × Bool) → List Instr
  | _, [] => []
  | t, (gap, bit) :: rest => .edge c (busTime p (t + gap)) bit true :: timedEdges p c (t + gap) rest

/-- The clock value at the last of those edges. -/
def timeAfter (t : Nat) (edges : List (Nat × Bool)) : Nat := t + (edges.map fun e => e.1).sum

/-- R51, R143: the number whose bit `k` is the `k`-th sample. -/
def packLsbFirst : List Bool → Nat
  | [] => 0
  | b :: bs => b.toNat + 2 * packLsbFirst bs

/-- R79: an interval inside the band, both ends included, that the timestamp bus can tell. -/
def InBand (p : Params) (gap : Nat) : Prop :=
  p.minInterval ≤ gap ∧ gap ≤ p.maxInterval ∧ gap < 2 ^ p.tsWidth

/-- R120: a start edge at `t` is accepted at position 0: it is trusted, or its gap is longer than `MAX_INTERVAL`, or it is in
the band and at least `MIN_IDLE_BETWEEN_BYTES`. -/
def StartAccepted (p : Params) (r : Regs) (t : Nat) : Prop :=
  r.position = 0 ∧
    (r.tlastValid = false ∨
      (p.minInterval ≤ delta p t r.tlast ∧
        (p.maxInterval < delta p t r.tlast ∨ p.minIdleBetweenBytes ≤ delta p t r.tlast)))

/-! ### The environment: contexts and duties -/

/-- The two agents that present operations (R18, R209). -/
inductive Agent where
  | edgeSource
  | controlContext
  deriving DecidableEq, Repr

/-- R18, R209: which agents an operation may come from. The machine does not check it: it cannot tell the difference. -/
def presentedBy : Instr → List Agent
  | .nop _ _ => [.edgeSource, .controlContext]
  | .edge _ _ _ _ => [.edgeSource]
  | .openCh _ _ => [.controlContext]
  | .closeCh _ _ => [.controlContext]
  | .holdDone _ _ => [.controlContext]
  | .reserved _ _ => []

/-- R242 with R75: the operation is one the control context may present in this phase. EDGE and NOP are free of the duty. -/
def LifecycleDuty (i : Instr) (r : Regs) : Prop :=
  match i with
  | .nop _ _ => True
  | .edge _ _ _ _ => True
  | .openCh _ _ => r.phase = .closed
  | .closeCh _ _ => r.phase = .opened
  | .holdDone _ _ => r.phase = .rstIdle ∨ r.phase = .rstActive
  | .reserved _ _ => False

/-- What a difference of two timestamps means as time, in ns (R8, R72). -/
def elapsedNs (p : Params) (count : Nat) : Nat := count * p.tsUnitNs

/-- R244: the untruncated times of successive EDGEs to one channel never decrease. -/
def MonotonicTimes (times : List Nat) : Prop := times.Pairwise (· ≤ ·)

/-- R245: the control context presents the two HOLD_DONEs late enough (times in ms). The model has no time and checks
nothing of it: it is a premise for a claim about the keyboard's response. -/
def HoldsKept (p : Params) (openAt firstHoldDone secondHoldDone : Nat) : Prop :=
  openAt + p.resetIdleHoldMinMs ≤ firstHoldDone ∧ firstHoldDone + p.resetActiveHoldMinMs ≤ secondHoldDone

end Sys2Proof.Machine
end

