-- ==== Sys2Proof/Certificates/Slice0/Obligations.lean ====
section
/-! DEFINITION. The statements for the provers. Each docstring names the rule of spec/ it formalises. A conclusion
`exec i s = .next { s with … }` gives the whole next state: what it does not name is unchanged, so it is the operation's
result, its frame and its completion in one. The record appended to `trace` is the operation's outputs (R30). -/

open Sys2Proof Sys2Proof.Machine

/-! ### Encoding -/

/-- Decoding an encoded well-formed operation gives it back, with every operand (R70-R75, R83). -/
def Obligations.DecodeOfEncodeIsTheOperation : Prop :=
  ∀ (p : Params) (i : Instr), i.wellFormed p = true → decode p (encode i) = i

/-- Encoding what was decoded gives the control word back bit for bit, for each of the 256 words, and for an EDGE the whole
transaction, when its time fits the bus and its channel select exists (R70-R75). -/
def Obligations.EncodeOfDecodeKeepsTheWord : Prop :=
  ∀ (p : Params) (o : Presented),
    (encode (decode p o)).ctl = o.ctl ∧
    (o.time < 2 ^ p.tsWidth → (1 < p.numChannels ∨ o.chan = 0) → (decode p o).mnemonic = "EDGE" → encode (decode p o) = o)

/-- R81: each of the 256 words selects exactly one row, and decodes to that row's operation, or is reserved. -/
def Obligations.EveryWordSelectsOneRowOrIsReserved : Prop :=
  ∀ (p : Params) (o : Presented),
    (reservedCtl o.ctl = true → (decode p o).mnemonic = "(reserved)" ∧ ∀ row ∈ opcodeRows, o.ctl &&& row.2.2 ≠ row.2.1) ∧
    (reservedCtl o.ctl = false →
      ∃ row ∈ opcodeRows, o.ctl &&& row.2.2 = row.2.1 ∧ (decode p o).mnemonic = row.1 ∧
        ∀ row' ∈ opcodeRows, o.ctl &&& row'.2.2 = row'.2.1 → row' = row)

/-- R71, R73, R74, R75: words written out from the encoding decode to the operations they stand for (V-ENC-01 to V-ENC-10). -/
def Obligations.WordsOfTheEncodingDecode : Prop :=
  decode Params.source ⟨0x00#8, 7, 0⟩ = .nop 0 0#2 ∧
  decode Params.source ⟨0x18#8, 7, 0⟩ = .nop 0 3#2 ∧
  decode Params.source ⟨0x11#8, 4294967328, 0⟩ = .edge 0 32 false true ∧
  decode Params.source ⟨0x19#8, 50, 0⟩ = .edge 0 50 true true ∧
  decode Params.source ⟨0x01#8, 50, 0⟩ = .edge 0 50 false false ∧
  decode Params.source ⟨0x09#8, 50, 0⟩ = .edge 0 50 true false ∧
  decode Params.source ⟨0x02#8, 0, 0⟩ = .openCh 0 0#2 ∧
  decode Params.source ⟨0x0B#8, 0, 0⟩ = .closeCh 0 1#2 ∧
  decode Params.source ⟨0x14#8, 0, 0⟩ = .holdDone 0 2#2 ∧
  decode Params.source ⟨0x05#8, 0, 0⟩ = .reserved 0 0x05#8 ∧
  decode Params.source ⟨0x21#8, 0, 0⟩ = .reserved 0 0x21#8

/-- R74: in a word that is not EDGE's, any value of `ev_ctl[4:3]` selects the same operation with the same effect. The
statement takes the reserved words in too: they are refused alike. -/
def Obligations.IgnoredBitsHaveNoEffect : Prop :=
  ∀ (s : State) (o : Presented) (rest : List Presented) (x : BitVec 2), ctlOp o.ctl ≠ 1#3 →
    step { s with inputs := { o with ctl := (o.ctl &&& 0xE7#8) ||| (x.setWidth 8 <<< 3) } :: rest } =
      step { s with inputs := o :: rest }

/-- R73: `d`, bit 3 of the control word, is not read when `d_ok`, bit 4, is 0 (V-ENC-05). -/
def Obligations.FailedSampleCarriesNoData : Prop :=
  ∀ (s : State) (o : Presented) (rest : List Presented), o.ctl.getLsbD 4 = false →
    step { s with inputs := { o with ctl := o.ctl ^^^ 0x08#8 } :: rest } = step { s with inputs := o :: rest }

/-! ### The step -/

/-- A step applies the next presented operation, decoded, to the machine with it taken from the queue (R53, R59). With nothing
left to present the run has ended and the step leaves the machine as it is: the model's choice (log entry 5). -/
def Obligations.StepRunsTheDecodedOperation : Prop :=
  (∀ (s : State) (o : Presented) (rest : List Presented), s.inputs = o :: rest →
    step s = exec (decode s.params o) { s with inputs := rest }) ∧
  (∀ s : State, s.inputs = [] → step s = .next s)

/-- R248: no operation hangs: each is carried out, refused, or has no effect, and the machine goes on. One entry is appended
to the run's outputs; the parameters (R64) and the operations still to come are not touched. That a refusal is a next state is
log entry 4. -/
def Obligations.EveryOperationAnswersANextState : Prop :=
  ∀ (i : Instr) (s : State), ∃ t e, exec i s = .next t ∧ t.trace = s.trace ++ [e] ∧ e.chan = i.chan ∧
    t.params = s.params ∧ t.inputs = s.inputs ∧ t.channels.length = s.channels.length

/-- R59: running the machine for as many steps as there are operations applies them one after another in the order they were
presented. -/
def Obligations.RunAppliesOperationsInOrder : Prop :=
  ∀ (ops rest : List Presented) (s : State), s.inputs = ops ++ rest →
    runSteps ops.length s = runOps (ops.map (decode s.params)) { s with inputs := rest }

/-! ### EDGE: the classifier -/

/-- R101: an EDGE while `armed` = 0 has no effect: no register changes, and no verdict, byte or diagnostic is output. -/
def Obligations.DisarmedEdgeHasNoEffect : Prop :=
  ∀ (s : State) (c t : Nat) (d dOk : Bool) (ch : Channel), s.channels[c]? = some ch → ch.regs.armed = false →
    exec (.edge c t d dOk) s = .next { s with
      trace := s.trace ++ [{ chan := c, byte := none, verdict := none, diagBits := 0#3, irqEnable := some false,
                             resetLine := resetLineLevel s.params ch.regs.resetOut }] }

/-- R109, with R102-R108 and R111: the first test of the chain that holds gives the verdict, and every EDGE presented while
`armed` = 1 outputs it, whatever its sample is (R116). -/
def Obligations.FirstTestThatHoldsGivesTheVerdict : Prop :=
  ∀ (s : State) (c t : Nat) (d dOk : Bool) (ch : Channel), s.channels[c]? = some ch → ch.regs.armed = true →
    ∃ u e, exec (.edge c t d dOk) s = .next u ∧ u.trace = s.trace ++ [e] ∧ e.chan = c ∧
      (ch.regs.tlastValid = false → e.verdict = some .normal) ∧
      (ch.regs.tlastValid = true →
        (delta s.params t ch.regs.tlast < s.params.minInterval → e.verdict = some .noise) ∧
        (s.params.minInterval ≤ delta s.params t ch.regs.tlast →
          (s.params.maxInterval < delta s.params t ch.regs.tlast →
            (ch.regs.position ≠ 0 → e.verdict = some .frameLoss) ∧
            (ch.regs.position = 0 → e.verdict = some .normal)) ∧
          (delta s.params t ch.regs.tlast ≤ s.params.maxInterval →
            (ch.regs.position = 0 → delta s.params t ch.regs.tlast < s.params.minIdleBetweenBytes →
              e.verdict = some .spuriousStart) ∧
            (ch.regs.position ≠ 0 ∨ s.params.minIdleBetweenBytes ≤ delta s.params t ch.regs.tlast →
              e.verdict = some .normal))))

/-- R110: when `MIN_IDLE_BETWEEN_BYTES` is above `MAX_INTERVAL`, every delta of the band at position 0 is SPURIOUS_START, a
longer one is accepted, and the value of `MIN_IDLE_BETWEEN_BYTES` has no effect on any verdict. -/
def Obligations.IdleThresholdAboveTheBandIsInvisible : Prop :=
  ∀ (p : Params) (t : Nat) (r : Regs), p.maxInterval < p.minIdleBetweenBytes →
    (∀ m, p.maxInterval < m → classify { p with minIdleBetweenBytes := m } t r = classify p t r) ∧
    (r.tlastValid = true → r.position = 0 → p.minInterval ≤ delta p t r.tlast →
      (delta p t r.tlast ≤ p.maxInterval → classify p t r = .spuriousStart) ∧
      (p.maxInterval < delta p t r.tlast → classify p t r = .normal))

/-- R110: the classification table at the source's values 13, 120 and 200. -/
def Obligations.SourceValuesGiveTheTableOfVerdicts : Prop :=
  ∀ (p : Params) (t : Nat) (r : Regs), p.minInterval = 13 → p.maxInterval = 120 → p.minIdleBetweenBytes = 200 →
    r.tlastValid = true →
      (delta p t r.tlast ≤ 12 → classify p t r = .noise) ∧
      (13 ≤ delta p t r.tlast → delta p t r.tlast ≤ 120 →
        classify p t r = if r.position = 0 then .spuriousStart else .normal) ∧
      (121 ≤ delta p t r.tlast → classify p t r = if r.position = 0 then .normal else .frameLoss)

/-- R103: `delta` of two bus timestamps is the elapsed time modulo `2^TS_WIDTH`: the exact elapsed time below `2^TS_WIDTH`,
and its remainder above it. -/
def Obligations.DeltaIsTheElapsedTimeModuloTheWidth : Prop :=
  ∀ (p : Params) (T T' : Nat), T ≤ T' →
    (T' - T < 2 ^ p.tsWidth → delta p (busTime p T') (busTime p T) = T' - T) ∧
    delta p (busTime p T') (busTime p T) = (T' - T) % 2 ^ p.tsWidth

/-- R113: a rejected edge writes no register, emits nothing and records no diagnostic; its only output is the verdict, and its
sample is not read. -/
def Obligations.RejectedEdgeOnlyReportsItsVerdict : Prop :=
  ∀ (s : State) (c t : Nat) (d dOk : Bool) (ch : Channel), s.channels[c]? = some ch → ch.regs.armed = true →
    (classify s.params t ch.regs = .noise ∨ classify s.params t ch.regs = .spuriousStart) →
    exec (.edge c t d dOk) s = .next { s with
      trace := s.trace ++ [{ chan := c, byte := none, verdict := some (classify s.params t ch.regs), diagBits := 0#3,
                             irqEnable := some true, resetLine := resetLineLevel s.params ch.regs.resetOut }] }

/-- R119: an edge with `delta < MIN_INTERVAL` changes no register. -/
def Obligations.NoiseChangesNoRegister : Prop :=
  ∀ (s u : State) (c t : Nat) (d dOk : Bool) (ch : Channel), s.channels[c]? = some ch → ch.regs.armed = true →
    ch.regs.tlastValid = true → delta s.params t ch.regs.tlast < s.params.minInterval →
    exec (.edge c t d dOk) s = .next u → u.channels = s.channels

/-- R118: in a run of EDGEs that are each rejected when measured from the last accepted edge, as noise or as a spurious start
and whatever the distances between them, every one is measured from that same edge and none changes a register. -/
def Obligations.RejectedRunIsMeasuredFromOneEdge : Prop :=
  ∀ (edges : List (Nat × Bool × Bool)) (s : State) (c : Nat) (ch : Channel), s.channels[c]? = some ch →
    ch.regs.armed = true →
    (∀ e ∈ edges, classify s.params e.1 ch.regs = .noise ∨ classify s.params e.1 ch.regs = .spuriousStart) →
    ∃ u, runOps (edges.map fun e => .edge c e.1 e.2.1 e.2.2) s = .next u ∧ u.channels = s.channels ∧
      u.refusals = s.refusals ∧
      u.trace.map (fun e => e.verdict) =
        s.trace.map (fun e => e.verdict) ++ edges.map fun e => some (classify s.params e.1 ch.regs)

/-! ### EDGE: the bit accumulator -/

/-- R131: `Start`. A valid sample of an accepted edge at position 0 is a start bit of either value: `acc` is cleared,
`position` becomes 1 and the sampled value is discarded. `tlast` takes the edge's time (R112). -/
def Obligations.StartBitOpensAFrame : Prop :=
  ∀ (s : State) (c t : Nat) (d : Bool) (ch : Channel), s.params.legal = true → s.channels[c]? = some ch →
    ch.regs.armed = true → classify s.params t ch.regs = .normal → ch.regs.position = 0 →
    exec (.edge c t d true) s = .next { s with
      channels := s.channels.set c { ch with
        regs := { ch.regs with position := 1, acc := 0, tlastValid := true, tlast := t } }
      trace := s.trace ++ [{ chan := c, byte := none, verdict := some .normal, diagBits := 0#3, irqEnable := some true,
                             resetLine := resetLineLevel s.params ch.regs.resetOut }] }

/-- R132: `Data0` to the last data position but one, which is `Data6` at the spec's `DATA_POSITIONS` = 8 (the reading at other
values is log entry 23). A sampled 1 sets bit `position − 1` of `acc` and no other, a sampled 0 leaves `acc` as it is, and
`position` goes up by one. -/
def Obligations.DataBitLandsAtItsPlace : Prop :=
  ∀ (s : State) (c t : Nat) (d : Bool) (ch : Channel), s.params.legal = true → s.channels[c]? = some ch →
    ch.regs.armed = true → classify s.params t ch.regs = .normal → 1 ≤ ch.regs.position →
    ch.regs.position < s.params.dataPositions →
    ∃ a : Nat,
      (∀ k, a.testBit k = (ch.regs.acc.testBit k || (d && decide (k + 1 = ch.regs.position)))) ∧
      exec (.edge c t d true) s = .next { s with
        channels := s.channels.set c { ch with
          regs := { ch.regs with position := ch.regs.position + 1, acc := a, tlastValid := true, tlast := t } }
        trace := s.trace ++ [{ chan := c, byte := none, verdict := some .normal, diagBits := 0#3, irqEnable := some true,
                               resetLine := resetLineLevel s.params ch.regs.resetOut }] }

/-- R134: the last data position, `Data7` at the spec's `DATA_POSITIONS` = 8 (the reading at other values is log entry 23).
The byte, its last bit included, is delivered and appended to `OUT`; `acc` and `position` return to 0, and `tlast` keeps this
edge's time. -/
def Obligations.LastDataBitEmitsTheByte : Prop :=
  ∀ (s : State) (c t : Nat) (d : Bool) (ch : Channel), s.params.legal = true → s.channels[c]? = some ch →
    ch.regs.armed = true → classify s.params t ch.regs = .normal → ch.regs.position = s.params.dataPositions →
    ∃ b : Nat,
      (∀ k, b.testBit k = (ch.regs.acc.testBit k || (d && decide (k + 1 = s.params.dataPositions)))) ∧
      exec (.edge c t d true) s = .next { s with
        channels := s.channels.set c { ch with
          regs := { ch.regs with position := 0, acc := 0, tlastValid := true, tlast := t }
          out := ch.out ++ [b] }
        trace := s.trace ++ [{ chan := c, byte := some b, verdict := some .normal, diagBits := 0#3, irqEnable := some true,
                               resetLine := resetLineLevel s.params ch.regs.resetOut }] }

/-- R136: a sampling failure on an accepted edge, at any position: the block resynchronises and reports `DG_SAMPLE_FAIL`
(beside `DG_FRAME_LOSS` when the edge was a frame loss, R138); it neither advances nor emits, and the next edge is trusted
(`tlast_valid` = 0). For the frame loss alone, the premise on `frameLossEdgeIsStart` says that the reading is R115's, not the
alternative of I6. The index in `DIAG` counts all operations of the run: log entry 8. -/
def Obligations.SamplingFailureResynchronises : Prop :=
  ∀ (s : State) (c t : Nat) (d : Bool) (ch : Channel), s.channels[c]? = some ch → ch.regs.armed = true →
    classify s.params t ch.regs = .normal ∨
      (classify s.params t ch.regs = .frameLoss ∧ s.params.frameLossEdgeIsStart = true) →
    let bits : DiagBits := if classify s.params t ch.regs = .frameLoss then 0b011#3 else 0b010#3
    exec (.edge c t d false) s = .next { s with
      channels := s.channels.set c { ch with
        regs := { ch.regs with position := 0, acc := 0, tlastValid := false, tlast := t }
        diag := ch.diag ++ [(s.trace.length, bits)] }
      trace := s.trace ++ [{ chan := c, byte := none, verdict := some (classify s.params t ch.regs), diagBits := bits,
                             irqEnable := some true, resetLine := resetLineLevel s.params ch.regs.resetOut }] }

/-- R137: an invalid position, a valid sample and the verdict NORMAL: the block resynchronises and reports `DG_INVALID_STATE`;
the channel stays open and armed. The invalid positions are those above `DATA_POSITIONS`, 9 to 15 at the spec's values (log
entry 23). The index in `DIAG` counts all operations of the run: log entry 8. -/
def Obligations.InvalidPositionResynchronises : Prop :=
  ∀ (s : State) (c t : Nat) (d : Bool) (ch : Channel), s.channels[c]? = some ch → ch.regs.armed = true →
    classify s.params t ch.regs = .normal → s.params.dataPositions < ch.regs.position →
    exec (.edge c t d true) s = .next { s with
      channels := s.channels.set c { ch with
        regs := { ch.regs with position := 0, acc := 0, tlastValid := false, tlast := t }
        diag := ch.diag ++ [(s.trace.length, 0b100#3)] }
      trace := s.trace ++ [{ chan := c, byte := none, verdict := some .normal, diagBits := 0b100#3, irqEnable := some true,
                             resetLine := resetLineLevel s.params ch.regs.resetOut }] }

/-- R138: frame loss. The byte in progress is dropped and never emitted, and the edge is the start bit of a new frame; with a
failed sample it ends as a sampling failure and reports both events. The premise on `frameLossEdgeIsStart` says that the
reading is R115's, not the alternative of I6. The index in `DIAG` counts all operations of the run: log entry 8. -/
def Obligations.FrameLossEdgeStartsANewFrame : Prop :=
  ∀ (s : State) (c t : Nat) (d : Bool) (ch : Channel), s.params.legal = true → s.channels[c]? = some ch →
    ch.regs.armed = true → s.params.frameLossEdgeIsStart = true → classify s.params t ch.regs = .frameLoss →
    (exec (.edge c t d true) s = .next { s with
      channels := s.channels.set c { ch with
        regs := { ch.regs with position := 1, acc := 0, tlastValid := true, tlast := t }
        diag := ch.diag ++ [(s.trace.length, 0b001#3)] }
      trace := s.trace ++ [{ chan := c, byte := none, verdict := some .frameLoss, diagBits := 0b001#3,
                             irqEnable := some true, resetLine := resetLineLevel s.params ch.regs.resetOut }] }) ∧
    (exec (.edge c t d false) s = .next { s with
      channels := s.channels.set c { ch with
        regs := { ch.regs with position := 0, acc := 0, tlastValid := false, tlast := t }
        diag := ch.diag ++ [(s.trace.length, 0b011#3)] }
      trace := s.trace ++ [{ chan := c, byte := none, verdict := some .frameLoss, diagBits := 0b011#3,
                             irqEnable := some true, resetLine := resetLineLevel s.params ch.regs.resetOut }] })

/-- I6, the reading the spec lets a model cover beside R115's: the frame-loss edge is consumed after the resynchronisation,
with `tlast` at its time (R105, R112) and its sample not read. That is the model's reading of I6, log entry 6; the index in
`DIAG` counts all operations of the run, log entry 8. -/
def Obligations.FrameLossEdgeMayBeConsumed : Prop :=
  ∀ (s : State) (c t : Nat) (d dOk : Bool) (ch : Channel), s.channels[c]? = some ch → ch.regs.armed = true →
    s.params.frameLossEdgeIsStart = false → classify s.params t ch.regs = .frameLoss →
    exec (.edge c t d dOk) s = .next { s with
      channels := s.channels.set c { ch with
        regs := { ch.regs with position := 0, acc := 0, tlastValid := true, tlast := t }
        diag := ch.diag ++ [(s.trace.length, 0b001#3)] }
      trace := s.trace ++ [{ chan := c, byte := none, verdict := some .frameLoss, diagBits := 0b001#3,
                             irqEnable := some true, resetLine := resetLineLevel s.params ch.regs.resetOut }] }

/-- R130, R102: an EDGE that reports a sampling failure or an invalid state leaves the channel resynchronised and armed, and
the next valid EDGE on it, at any time, is trusted: its verdict is NORMAL and it opens a frame (V-ACC-12). -/
def Obligations.EdgeAfterAResynchronisationIsTrusted : Prop :=
  ∀ (s u : State) (c t : Nat) (d dOk : Bool) (ch : Channel) (e : OpOutputs), s.params.legal = true →
    s.channels[c]? = some ch → exec (.edge c t d dOk) s = .next u → u.trace = s.trace ++ [e] →
    e.diagBits &&& 0b110#3 ≠ 0#3 →
    ∃ v, u.channels[c]? = some v ∧ v.regs.position = 0 ∧ v.regs.acc = 0 ∧ v.regs.tlastValid = false ∧
      v.regs.armed = true ∧
      ∀ (t' : Nat) (d' : Bool), ∃ w e', exec (.edge c t' d' true) u = .next w ∧ w.trace = u.trace ++ [e'] ∧
        e'.verdict = some .normal ∧
        w.channels = u.channels.set c { v with
          regs := { v.regs with position := 1, acc := 0, tlastValid := true, tlast := t' } }

/-- R201: every error is handled inside its EDGE. No EDGE changes `armed`, `phase` or `reset_out` or sets the refusal mark,
and one that reports an error, by its verdict or by a diagnostic, delivers nothing to the byte sink. -/
def Obligations.ErrorsStayInsideTheirEdge : Prop :=
  ∀ (s : State) (c t : Nat) (d dOk : Bool) (ch : Channel), s.channels[c]? = some ch →
    ∃ u v e, exec (.edge c t d dOk) s = .next u ∧ u.channels[c]? = some v ∧ u.trace = s.trace ++ [e] ∧
      v.regs.armed = ch.regs.armed ∧ v.regs.phase = ch.regs.phase ∧ v.regs.resetOut = ch.regs.resetOut ∧
      u.refusals = s.refusals ∧
      (e.diagBits ≠ 0#3 ∨ e.verdict ≠ some .normal → e.byte = none ∧ v.out = ch.out)

/-- R77: the sets of diagnostic events that one operation can report, from any state. -/
def Obligations.DiagnosticSetsThatOccur : Prop :=
  ∀ (i : Instr) (s u : State) (e : OpOutputs), exec i s = .next u → u.trace = s.trace ++ [e] →
    e.diagBits ∈ [0b000#3, 0b001#3, 0b010#3, 0b011#3, 0b100#3] ∧ (e.diagValid = true ↔ e.diagBits ≠ 0#3)

/-- R40: `OUT` of a channel grows by one byte exactly when a valid EDGE on it is classified NORMAL at the last data position
(while armed), which is 8 at the spec's `DATA_POSITIONS` (log entry 23); no other operation changes it. -/
def Obligations.OutGrowsExactlyAtTheLastDataBit : Prop :=
  ∀ (i : Instr) (s u : State) (c : Nat) (ch v : Channel), s.params.legal = true → exec i s = .next u →
    s.channels[c]? = some ch → u.channels[c]? = some v →
    ((∃ b, v.out = ch.out ++ [b]) ↔
      ∃ t d, i = .edge c t d true ∧ ch.regs.armed = true ∧ ch.regs.position = s.params.dataPositions ∧
        classify s.params t ch.regs = .normal) ∧
    (v.out = ch.out ∨ ∃ b, v.out = ch.out ++ [b])

/-! ### Lifecycle -/

/-- R160: NOP leaves every register as it is, in every phase; all its outputs are inactive and the levels stay. -/
def Obligations.NopChangesNothing : Prop :=
  ∀ (s : State) (c : Nat) (x : BitVec 2) (ch : Channel), s.channels[c]? = some ch →
    exec (.nop c x) s = .next { s with
      trace := s.trace ++ [{ chan := c, byte := none, verdict := none, diagBits := 0#3, irqEnable := some ch.regs.armed,
                             resetLine := resetLineLevel s.params ch.regs.resetOut }] }

/-- R162, R163: OPEN of a closed channel without a reset line resets the decoder and arms it at once. -/
def Obligations.OpenWithoutResetLineArmsAtOnce : Prop :=
  ∀ (s : State) (c : Nat) (x : BitVec 2) (ch : Channel), s.channels[c]? = some ch → ch.regs.phase = .closed →
    s.params.resetLinePresent = false →
    exec (.openCh c x) s = .next { s with
      channels := s.channels.set c { ch with
        regs := { ch.regs with position := 0, acc := 0, tlastValid := false, armed := true, phase := .opened } }
      trace := s.trace ++ [{ chan := c, byte := none, verdict := none, diagBits := 0#3, irqEnable := some true,
                             resetLine := none }] }

/-- R162, R164: OPEN of a closed channel with a reset line resets the decoder, drives the line IDLE and does not arm. -/
def Obligations.OpenWithResetLineStartsThePulse : Prop :=
  ∀ (s : State) (c : Nat) (x : BitVec 2) (ch : Channel), s.channels[c]? = some ch → ch.regs.phase = .closed →
    s.params.resetLinePresent = true →
    exec (.openCh c x) s = .next { s with
      channels := s.channels.set c { ch with
        regs := { ch.regs with position := 0, acc := 0, tlastValid := false, resetOut := .idle, phase := .rstIdle } }
      trace := s.trace ++ [{ chan := c, byte := none, verdict := none, diagBits := 0#3, irqEnable := some ch.regs.armed,
                             resetLine := some s.params.resetIdleLevel }] }

/-- R169: the first HOLD_DONE drives the line ACTIVE; `armed` is not written. -/
def Obligations.FirstHoldDoneDrivesTheLineActive : Prop :=
  ∀ (s : State) (c : Nat) (x : BitVec 2) (ch : Channel), s.channels[c]? = some ch → ch.regs.phase = .rstIdle →
    exec (.holdDone c x) s = .next { s with
      channels := s.channels.set c { ch with regs := { ch.regs with resetOut := .active, phase := .rstActive } }
      trace := s.trace ++ [{ chan := c, byte := none, verdict := none, diagBits := 0#3, irqEnable := some ch.regs.armed,
                             resetLine := if s.params.resetLinePresent then some (!s.params.resetIdleLevel) else none }] }

/-- R170: the second HOLD_DONE returns the line to IDLE and arms the channel; `position`, `acc` and `tlast_valid` still hold
the values of R162. -/
def Obligations.SecondHoldDoneArmsTheChannel : Prop :=
  ∀ (s : State) (c : Nat) (x : BitVec 2) (ch : Channel), s.channels[c]? = some ch → ch.regs.phase = .rstActive →
    exec (.holdDone c x) s = .next { s with
      channels := s.channels.set c { ch with
        regs := { ch.regs with resetOut := .idle, armed := true, phase := .opened } }
      trace := s.trace ++ [{ chan := c, byte := none, verdict := none, diagBits := 0#3, irqEnable := some true,
                             resetLine := if s.params.resetLinePresent then some s.params.resetIdleLevel else none }] } ∧
    (s.Inv → ch.regs.position = 0 ∧ ch.regs.acc = 0 ∧ ch.regs.tlastValid = false)

/-- R166: CLOSE of an open channel disarms it, resets the decoder and discards the partial byte: nothing is delivered, and the
reset line keeps its level. -/
def Obligations.CloseDiscardsThePartialByte : Prop :=
  ∀ (s : State) (c : Nat) (x : BitVec 2) (ch : Channel), s.channels[c]? = some ch → ch.regs.phase = .opened →
    exec (.closeCh c x) s = .next { s with
      channels := s.channels.set c { ch with
        regs := { ch.regs with position := 0, acc := 0, tlastValid := false, armed := false, phase := .closed } }
      trace := s.trace ++ [{ chan := c, byte := none, verdict := none, diagBits := 0#3, irqEnable := some false,
                             resetLine := resetLineLevel s.params ch.regs.resetOut }] }

/-- R171: a lifecycle operation outside its phases is refused: the mark is set with its reason and no register changes (R240).
That this is a next state is log entry 4; that the record shows the level outputs at their levels is log entry 11. -/
def Obligations.OutOfContractLifecycleIsRefused : Prop :=
  ∀ (s : State) (c : Nat) (x : BitVec 2) (ch : Channel), s.channels[c]? = some ch →
    let refusedFor (why : RefuseReason) : State := { s with
      refusals := s.refusals ++ [why]
      trace := s.trace ++ [{ chan := c, byte := none, verdict := none, diagBits := 0#3, irqEnable := some ch.regs.armed,
                             resetLine := resetLineLevel s.params ch.regs.resetOut }] }
    (ch.regs.phase ≠ .closed → exec (.openCh c x) s = .next (refusedFor .openNotClosed)) ∧
    (ch.regs.phase ≠ .opened → exec (.closeCh c x) s = .next (refusedFor .closeNotOpen)) ∧
    (ch.regs.phase = .closed ∨ ch.regs.phase = .opened → exec (.holdDone c x) s = .next (refusedFor .holdDoneOutOfPhase))

/-- R75: a word with a reserved `op` or a nonzero `rsv` decodes to no named operation. It changes no register and outputs
nothing, and the mark is set with `reserved_encoding` (R240). That this is a next state is log entry 4; that the record shows
the level outputs at their levels is log entry 11. -/
def Obligations.ReservedWordIsRefused : Prop :=
  (∀ (p : Params) (o : Presented), ctlOp o.ctl = 5#3 ∨ ctlOp o.ctl = 6#3 ∨ ctlOp o.ctl = 7#3 ∨ ctlRsv o.ctl ≠ 0#3 →
    decode p o = .reserved (busChan p o.chan) o.ctl) ∧
  (∀ (s : State) (c : Nat) (ctl : CtlWord) (ch : Channel), s.channels[c]? = some ch →
    exec (.reserved c ctl) s = .next { s with
      refusals := s.refusals ++ [.reservedEncoding]
      trace := s.trace ++ [{ chan := c, byte := none, verdict := none, diagBits := 0#3, irqEnable := some ch.regs.armed,
                             resetLine := resetLineLevel s.params ch.regs.resetOut }] })

/-- R83: an operation whose channel is outside `[0, NUM_CHANNELS − 1]` is refused with `bad_channel`; a reserved word is
refused for its encoding first (log entry 9). That this is a next state is log entry 4, and that such a record has no level
outputs is log entry 11. The premise is the invariant that there are `NUM_CHANNELS` channels. -/
def Obligations.ChannelOutOfRangeIsRefused : Prop :=
  ∀ (s : State) (i : Instr), s.Inv → s.params.numChannels ≤ i.chan →
    exec i s = .next { s with
      refusals := s.refusals ++ [if i.mnemonic = "(reserved)" then .reservedEncoding else .badChannel]
      trace := s.trace ++ [{ chan := i.chan, byte := none, verdict := none, diagBits := 0#3, irqEnable := none,
                             resetLine := none }] }

/-- R172: the lifecycle transition table. An operation that changes `phase` of a channel is one of its five rows, with `armed`
and `reset_out` after it as the row says. In the row of OPEN without a line the register does not exist (R26): that the model
keeps it unchanged there is log entry 15. -/
def Obligations.PhaseChangesAreTheRowsOfTheTable : Prop :=
  ∀ (i : Instr) (s u : State) (c : Nat) (ch v : Channel), s.Inv → exec i s = .next u → s.channels[c]? = some ch →
    u.channels[c]? = some v → v.regs.phase ≠ ch.regs.phase →
    i.chan = c ∧
    ((i.mnemonic = "OPEN" ∧ s.params.resetLinePresent = false ∧ ch.regs.phase = .closed ∧ v.regs.phase = .opened ∧
        v.regs.armed = true ∧ v.regs.resetOut = ch.regs.resetOut) ∨
     (i.mnemonic = "OPEN" ∧ s.params.resetLinePresent = true ∧ ch.regs.phase = .closed ∧ v.regs.phase = .rstIdle ∧
        v.regs.armed = false ∧ v.regs.resetOut = .idle) ∨
     (i.mnemonic = "HOLD_DONE" ∧ ch.regs.phase = .rstIdle ∧ v.regs.phase = .rstActive ∧ v.regs.armed = false ∧
        v.regs.resetOut = .active) ∨
     (i.mnemonic = "HOLD_DONE" ∧ ch.regs.phase = .rstActive ∧ v.regs.phase = .opened ∧ v.regs.armed = true ∧
        v.regs.resetOut = .idle) ∨
     (i.mnemonic = "CLOSE" ∧ ch.regs.phase = .opened ∧ v.regs.phase = .closed ∧ v.regs.armed = false ∧
        v.regs.resetOut = ch.regs.resetOut))

/-- R174: `irq_enable` equals `armed` after every operation, and only OPEN or the second HOLD_DONE raise it and only CLOSE
lowers it. -/
def Obligations.InterruptEnableFollowsArmed : Prop :=
  ∀ (i : Instr) (s u : State) (ch v : Channel) (e : OpOutputs), exec i s = .next u → s.channels[i.chan]? = some ch →
    u.channels[i.chan]? = some v → u.trace = s.trace ++ [e] →
    e.irqEnable = some v.regs.armed ∧
    (ch.regs.armed = false → v.regs.armed = true →
      i.mnemonic = "OPEN" ∨ i.mnemonic = "HOLD_DONE" ∧ ch.regs.phase = .rstActive) ∧
    (ch.regs.armed = true → v.regs.armed = false → i.mnemonic = "CLOSE")

/-- R61: reset before arm. An operation that arms a channel leaves it at position 0 with a cleared accumulator and no
reference time, so that the first edge after it is trusted. -/
def Obligations.StateIsResetBeforeArming : Prop :=
  ∀ (i : Instr) (s u : State) (c : Nat) (ch v : Channel), s.Inv → exec i s = .next u → s.channels[c]? = some ch →
    u.channels[c]? = some v → ch.regs.armed = false → v.regs.armed = true →
    v.regs.position = 0 ∧ v.regs.acc = 0 ∧ v.regs.tlastValid = false

/-- R102, R175: after an operation that arms a channel, the next valid EDGE on it, at any time, is trusted: its verdict is
NORMAL and it opens a frame. -/
def Obligations.FirstEdgeAfterArmingOpensAFrame : Prop :=
  ∀ (i : Instr) (s u : State) (c : Nat) (ch v : Channel), s.Inv → exec i s = .next u → s.channels[c]? = some ch →
    u.channels[c]? = some v → ch.regs.armed = false → v.regs.armed = true →
    ∀ (t : Nat) (d : Bool), ∃ w e, exec (.edge c t d true) u = .next w ∧ w.trace = u.trace ++ [e] ∧
      e.verdict = some .normal ∧
      w.channels = u.channels.set c { v with
        regs := { v.regs with position := 1, acc := 0, tlastValid := true, tlast := t } }

/-- R101, R167, R231: a closed channel waits. Whatever operations follow, as long as none of them is an OPEN of it, its
registers, its `OUT` and its `DIAG` stay as they are: an EDGE has no effect (R101), NOP none (R160), a CLOSE or HOLD_DONE of it
(R171), a reserved word (R75) and a channel that does not exist (R83) are refused and change no register (R240), and operations
on other channels do not touch it (R41). That the run goes on with a next state after a refusal is log entry 4. -/
def Obligations.ClosedChannelWaitsForOpen : Prop :=
  ∀ (ops : List Instr) (s : State) (c : Nat) (ch : Channel), s.channels[c]? = some ch → ch.regs.phase = .closed →
    ch.regs.armed = false → (∀ i ∈ ops, i.mnemonic = "OPEN" → i.chan ≠ c) →
    ∃ u, runOps ops s = .next u ∧ u.channels[c]? = some ch

/-! ### Refusal -/

/-- R240: the refusal mark is never cleared, and an operation that sets it changes no register of any channel, emits nothing
and reports nothing. That a refusal is a next state is log entry 4; that the mark is the list of reasons is log entry 10. -/
def Obligations.RefusalMarkIsNeverCleared : Prop :=
  ∀ (i : Instr) (s u : State), exec i s = .next u →
    (u.refusals = s.refusals ∨
      ∃ why e, u.refusals = s.refusals ++ [why] ∧ u.channels = s.channels ∧ u.trace = s.trace ++ [e] ∧
        e.byte = none ∧ e.verdict = none ∧ e.diagBits = 0#3)

/-- R242: an operation on an existing channel that keeps the duty of the lifecycle order, with no reserved word, is not
refused, and one that breaks it is. -/
def Obligations.LifecycleDutyIsWhatIsNotRefused : Prop :=
  ∀ (i : Instr) (s u : State) (ch : Channel), s.channels[i.chan]? = some ch → exec i s = .next u →
    (LifecycleDuty i ch.regs ↔ u.refusals = s.refusals)

/-! ### Invariants -/

/-- R35-R39, with R23, R25, R26 and R54: every step keeps the invariants. The bound on `position` is `DATA_POSITIONS`, 8 at
the spec's value (log entry 23). -/
def Obligations.StepKeepsTheInvariants : Prop := ∀ s t : State, s.Inv → step s = .next t → t.Inv

/-- R34, R230: the invariants hold at power-on, for all parameters of a block and every draw of the unspecified registers, and
at the reset state, which holds the values of log entries 2 and 3. -/
def Obligations.InvariantsHoldAtPowerOn : Prop :=
  (∀ (p : Params) (tl : Nat → Nat) (ro : Nat → Level), p.legal = true → (State.powerOn p tl ro).Inv) ∧ State.reset.Inv

/-- R230: the power-on values of every channel, for every draw of `tlast` and `reset_out`, which the rule leaves unspecified.
-/
def Obligations.PowerOnValues : Prop :=
  ∀ (p : Params) (tl : Nat → Nat) (ro : Nat → Level),
    (State.powerOn p tl ro).channels.length = p.numChannels ∧ (State.powerOn p tl ro).refusals = [] ∧
    ∀ ch ∈ (State.powerOn p tl ro).channels,
      ch.regs.phase = .closed ∧ ch.regs.armed = false ∧ ch.regs.position = 0 ∧ ch.regs.acc = 0 ∧
      ch.regs.tlastValid = false ∧ ch.out = [] ∧ ch.diag = []

/-- R31, R32: from every state whose `OUT` and `DIAG` are what its run delivered and reported, a step gives another; so `OUT`
holds every byte in the order of the operations that emitted it, and `DIAG` one pair with the operation's index for each
report. The index counts all operations of the run: log entry 8. -/
def Obligations.StepKeepsTheRecordOfTheRun : Prop :=
  ∀ s t : State, s.RecordsRun → step s = .next t → t.RecordsRun

/-- R31, R32, R34: the record of the run is empty, and so correct, at power-on. -/
def Obligations.RecordOfTheRunHoldsAtPowerOn : Prop :=
  ∀ (p : Params) (tl : Nat → Nat) (ro : Nat → Level), (State.powerOn p tl ro).RecordsRun

/-- R141: from every good state in which `position` is the number of state advances since the last `Start`, counted on the
outputs of the run, a step gives another, and a byte that the step delivers is preceded by exactly `DATA_POSITIONS` advances,
8 at the spec's value (log entry 23). That "state advances" is this count on the outputs is the model's choice, log entry 22.
-/
def Obligations.PositionCountsTheAdvancesSinceStart : Prop :=
  ∀ s t : State, s.Inv → s.CountsAdvances → step s = .next t →
    t.CountsAdvances ∧
    ∀ e, t.trace = s.trace ++ [e] → e.byte.isSome = true → advancesOf s.params e.chan s.trace = s.params.dataPositions

/-- R141: the count of log entry 22 is right at power-on. -/
def Obligations.AdvanceCountHoldsAtPowerOn : Prop :=
  ∀ (p : Params) (tl : Nat → Nat) (ro : Nat → Level), (State.powerOn p tl ro).CountsAdvances

/-! ### What is not read, and what is not changed -/

/-- R41: an operation changes no channel but the one it is addressed to. -/
def Obligations.OtherChannelsAreUntouched : Prop :=
  ∀ (i : Instr) (s u : State) (c : Nat), exec i s = .next u → c ≠ i.chan → u.channels[c]? = s.channels[c]?

/-- R41: what an operation does to its channel, and what it outputs, depends on the parameters and that channel's registers
alone: on no other channel, and on nothing in `OUT`, `DIAG` or the record of the run (R31, R32). -/
def Obligations.ChannelSeesOnlyItself : Prop :=
  ∀ (i : Instr) (s s' u u' : State) (ch ch' : Channel), s.params = s'.params → s.channels[i.chan]? = some ch →
    s'.channels[i.chan]? = some ch' → ch.regs = ch'.regs → exec i s = .next u → exec i s' = .next u' →
    ∃ e v v' bytes why, u.trace = s.trace ++ [e] ∧ u'.trace = s'.trace ++ [e] ∧
      u.channels[i.chan]? = some v ∧ u'.channels[i.chan]? = some v' ∧ v.regs = v'.regs ∧
      v.out = ch.out ++ bytes ∧ v'.out = ch'.out ++ bytes ∧
      u.refusals = s.refusals ++ why ∧ u'.refusals = s'.refusals ++ why

/-- R41, R66: operations on two different channels can be applied in either order: each channel ends with the same registers
and the same `OUT`. -/
def Obligations.ChannelsCommute : Prop :=
  ∀ (i j : Instr) (s u w : State) (c : Nat), i.chan ≠ j.chan → runOps [i, j] s = .next u → runOps [j, i] s = .next w →
    (u.channels[c]?.map fun ch => (ch.regs, ch.out)) = (w.channels[c]?.map fun ch => (ch.regs, ch.out))

/-- R14: while `tlast_valid` = 0 no rule reads `tlast`: with another value there, an operation gives the same outputs and the
same state, but for that same unread value where it is still invalid. -/
def Obligations.InvalidTimestampIsNotRead : Prop :=
  ∀ (i : Instr) (s u : State) (c x : Nat) (ch : Channel), s.channels[c]? = some ch → ch.regs.tlastValid = false →
    exec i s = .next u →
    ∃ u', exec i { s with channels := s.channels.set c { ch with regs := { ch.regs with tlast := x } } } = .next u' ∧
      (u' = u ∨ ∃ v, u.channels[c]? = some v ∧ v.regs.tlastValid = false ∧
        u' = { u with channels := u.channels.set c { v with regs := { v.regs with tlast := x } } })

/-- R26: without a reset line no rule reads `reset_out`: with another level there, an operation gives the same outputs and the
same state, but for that level. That the model keeps the register there is log entry 15. -/
def Obligations.ResetOutIsNotReadWithoutALine : Prop :=
  ∀ (i : Instr) (s u : State) (c : Nat) (l : Level) (ch : Channel), s.channels[c]? = some ch →
    s.params.resetLinePresent = false → exec i s = .next u →
    ∃ u', exec i { s with channels := s.channels.set c { ch with regs := { ch.regs with resetOut := l } } } = .next u' ∧
      (u' = u ∨ ∃ v, u.channels[c]? = some v ∧
        u' = { u with channels := u.channels.set c { v with regs := { v.regs with resetOut := l } } })

/-! ### Frames -/

/-- R120, R143: nine valid edges (`DATA_POSITIONS` + 1, log entry 23) whose first is accepted at position 0 and whose eight
others follow at intervals inside the band emit exactly one byte, whose bit `k` is the `k`-th data sample, and leave the
channel at `Start` with `tlast` at the last edge. -/
def Obligations.WellTimedFrameEmitsItsByte : Prop :=
  ∀ (s : State) (c t : Nat) (start : Bool) (data : List (Nat × Bool)) (ch : Channel), s.params.legal = true →
    s.channels[c]? = some ch → ch.regs.armed = true → StartAccepted s.params ch.regs (busTime s.params t) →
    data.length = s.params.dataPositions → (∀ e ∈ data, InBand s.params e.1) →
    ∃ u, runOps (.edge c (busTime s.params t) start true :: timedEdges s.params c t data) s = .next u ∧
      u.channels = s.channels.set c { ch with
        regs := { ch.regs with position := 0, acc := 0, tlastValid := true,
                               tlast := busTime s.params (timeAfter t data) }
        out := ch.out ++ [packLsbFirst (data.map fun e => e.2)] } ∧
      u.refusals = s.refusals

/-- R142: after a frame loss in the middle of a byte, the long edge is the fresh start bit, and it and the eight edges that
follow inside the band emit exactly the byte of their samples: the stale partial byte is never emitted. The number of data
edges is `DATA_POSITIONS`, 8 at the spec's value (log entry 23), and the index in `DIAG` counts all operations of the run (log
entry 8). -/
def Obligations.FrameLossIsRecoveredFrom : Prop :=
  ∀ (s : State) (c t : Nat) (start : Bool) (data : List (Nat × Bool)) (ch : Channel), s.params.legal = true →
    s.channels[c]? = some ch → ch.regs.armed = true → s.params.frameLossEdgeIsStart = true →
    ch.regs.position ≠ 0 → ch.regs.tlastValid = true →
    s.params.minInterval ≤ delta s.params (busTime s.params t) ch.regs.tlast →
    s.params.maxInterval < delta s.params (busTime s.params t) ch.regs.tlast → data.length = s.params.dataPositions →
    (∀ e ∈ data, InBand s.params e.1) →
    ∃ u, runOps (.edge c (busTime s.params t) start true :: timedEdges s.params c t data) s = .next u ∧
      u.channels = s.channels.set c { ch with
        regs := { ch.regs with position := 0, acc := 0, tlastValid := true,
                               tlast := busTime s.params (timeAfter t data) }
        out := ch.out ++ [packLsbFirst (data.map fun e => e.2)]
        diag := ch.diag ++ [(s.trace.length, 0b001#3)] } ∧
      u.refusals = s.refusals
end

