-- ==== Sys2Proof/Laws/Decode.lean ====
section
/-! SUPPORT. The fields of a packed control word, and the table's rows (spec/30_encoding.md R70-R75, R81). -/

namespace Sys2Proof

@[simp] theorem ctlOp_packCtl (x : BitVec 2) (op : BitVec 3) : ctlOp (packCtl x op) = op := by
  revert x op; decide

@[simp] theorem ctlIgn_packCtl (x : BitVec 2) (op : BitVec 3) : ctlIgn (packCtl x op) = x := by
  revert x op; decide

@[simp] theorem ctlRsv_packCtl (x : BitVec 2) (op : BitVec 3) : ctlRsv (packCtl x op) = 0#3 := by
  revert x op; decide

@[simp] theorem ctlD_packCtl (dOk d : Bool) (op : BitVec 3) :
    ctlD (packCtl (BitVec.ofBool dOk ++ BitVec.ofBool d) op) = d := by
  revert dOk d op; decide

@[simp] theorem ctlDOk_packCtl (dOk d : Bool) (op : BitVec 3) :
    ctlDOk (packCtl (BitVec.ofBool dOk ++ BitVec.ofBool d) op) = dOk := by
  revert dOk d op; decide

/-- The fields of a word whose `rsv` is 0 are the whole word. -/
theorem packCtl_fields : ∀ ctl : CtlWord, ctlRsv ctl = 0#3 → packCtl (ctlIgn ctl) (ctlOp ctl) = ctl := by decide

/-- The two bits of EDGE's sample are the field that the other operations ignore. -/
theorem sampleBits_eq_ign : ∀ ctl : CtlWord, BitVec.ofBool (ctlDOk ctl) ++ BitVec.ofBool (ctlD ctl) = ctlIgn ctl := by decide

/-- No control word selects two rows of the table. -/
theorem opcodeRows_disjoint :
    opcodeRows.Pairwise fun a b => ∀ ctl : CtlWord, ¬ (ctl &&& a.2.2 = a.2.1 ∧ ctl &&& b.2.2 = b.2.1) := by decide

theorem busTime_lt (p : Params) (t : Nat) : busTime p t < 2 ^ p.tsWidth := Nat.mod_lt _ (Nat.two_pow_pos _)

theorem busTime_of_lt {p : Params} {t : Nat} (h : t < 2 ^ p.tsWidth) : busTime p t = t := Nat.mod_eq_of_lt h

theorem chanOperandOk_busChan (p : Params) (c : Nat) : p.chanOperandOk (busChan p c) = true := by
  unfold Params.chanOperandOk busChan
  split <;> simp_all

theorem busChan_of_ok {p : Params} {c : Nat} (h : p.chanOperandOk c = true) : busChan p c = c := by
  unfold Params.chanOperandOk at h
  unfold busChan
  split
  · rfl
  · simp_all

/-- What the decoder answers is well-formed: every operand fits its field. -/
theorem decode_wellFormed (p : Params) (o : Presented) : (decode p o).wellFormed p = true := by
  unfold decode
  split
  · rename_i hrsv
    simp [Instr.wellFormed, chanOperandOk_busChan, reservedCtl]
    exact .inr hrsv
  · split <;> simp [Instr.wellFormed, chanOperandOk_busChan, busTime_lt, reservedCtl]
    left
    rename_i h0 h1 h2 h3 h4
    have : ∀ x : BitVec 3, x.toNat ≠ 0 → x.toNat ≠ 1 → x.toNat ≠ 2 → x.toNat ≠ 3 → x.toNat ≠ 4 → 5 ≤ x.toNat := by decide
    exact this _ h0 h1 h2 h3 h4

end Sys2Proof
end

