-- ==== Sys2Proof/Laws/State.lean ====
section
/-! SUPPORT. One lemma per field per update, so that no later proof unfolds a record update. -/

namespace Sys2Proof.Machine

/-! ### Registers -/

section RegisterWrites
variable (r : Regs) (t : Nat)

@[simp] theorem Regs.resync_position : r.resync.position = 0 := rfl
@[simp] theorem Regs.resync_acc : r.resync.acc = 0 := rfl
@[simp] theorem Regs.resync_tlastValid : r.resync.tlastValid = false := rfl
@[simp] theorem Regs.resync_tlast : r.resync.tlast = r.tlast := rfl
@[simp] theorem Regs.resync_armed : r.resync.armed = r.armed := rfl
@[simp] theorem Regs.resync_phase : r.resync.phase = r.phase := rfl
@[simp] theorem Regs.resync_resetOut : r.resync.resetOut = r.resetOut := rfl

@[simp] theorem Regs.initDecoder_position : r.initDecoder.position = 0 := rfl
@[simp] theorem Regs.initDecoder_acc : r.initDecoder.acc = 0 := rfl
@[simp] theorem Regs.initDecoder_tlastValid : r.initDecoder.tlastValid = false := rfl
@[simp] theorem Regs.initDecoder_tlast : r.initDecoder.tlast = r.tlast := rfl
@[simp] theorem Regs.initDecoder_armed : r.initDecoder.armed = r.armed := rfl
@[simp] theorem Regs.initDecoder_phase : r.initDecoder.phase = r.phase := rfl
@[simp] theorem Regs.initDecoder_resetOut : r.initDecoder.resetOut = r.resetOut := rfl

@[simp] theorem Regs.acceptAt_position : (r.acceptAt t).position = r.position := rfl
@[simp] theorem Regs.acceptAt_acc : (r.acceptAt t).acc = r.acc := rfl
@[simp] theorem Regs.acceptAt_tlastValid : (r.acceptAt t).tlastValid = true := rfl
@[simp] theorem Regs.acceptAt_tlast : (r.acceptAt t).tlast = t := rfl
@[simp] theorem Regs.acceptAt_armed : (r.acceptAt t).armed = r.armed := rfl
@[simp] theorem Regs.acceptAt_phase : (r.acceptAt t).phase = r.phase := rfl
@[simp] theorem Regs.acceptAt_resetOut : (r.acceptAt t).resetOut = r.resetOut := rfl

variable (p : Params)

@[simp] theorem Regs.advance_acc : (r.advance p).acc = r.acc := rfl
@[simp] theorem Regs.advance_tlastValid : (r.advance p).tlastValid = r.tlastValid := rfl
@[simp] theorem Regs.advance_tlast : (r.advance p).tlast = r.tlast := rfl
@[simp] theorem Regs.advance_armed : (r.advance p).armed = r.armed := rfl
@[simp] theorem Regs.advance_phase : (r.advance p).phase = r.phase := rfl
@[simp] theorem Regs.advance_resetOut : (r.advance p).resetOut = r.resetOut := rfl

end RegisterWrites

/-! ### What a transaction records -/

section Records
variable (p : Params) (c k : Nat) (o : Option Regs) (r : Regs) (sig : Signals) (ch : Channel) (why : RefuseReason) (s : State)

@[simp] theorem outputsOf_chan : (outputsOf p c o sig).chan = c := rfl
@[simp] theorem outputsOf_byte : (outputsOf p c o sig).byte = sig.byte := rfl
@[simp] theorem outputsOf_verdict : (outputsOf p c o sig).verdict = sig.verdict := rfl
@[simp] theorem outputsOf_diagBits : (outputsOf p c o sig).diagBits = sig.diagBits := rfl
@[simp] theorem outputsOf_irqEnable : (outputsOf p c (some r) sig).irqEnable = some r.armed := rfl
@[simp] theorem outputsOf_resetLine :
    (outputsOf p c (some r) sig).resetLine = resetLineLevel p r.resetOut := rfl

@[simp] theorem Channel.record_regs : (ch.record k r sig).regs = r := rfl
@[simp] theorem Channel.record_out : (ch.record k r sig).out = ch.out ++ sig.byte.toList := rfl
@[simp] theorem Channel.record_diag :
    (ch.record k r sig).diag = if sig.diagBits = 0#3 then ch.diag else ch.diag ++ [(k, sig.diagBits)] := rfl

@[simp] theorem State.refuse_params : (s.refuse c why).params = s.params := rfl
@[simp] theorem State.refuse_channels : (s.refuse c why).channels = s.channels := rfl
@[simp] theorem State.refuse_trace :
    (s.refuse c why).trace = s.trace ++ [outputsOf s.params c (s.regsAt c) {}] := rfl
@[simp] theorem State.refuse_refusals : (s.refuse c why).refusals = s.refusals ++ [why] := rfl
@[simp] theorem State.refuse_inputs : (s.refuse c why).inputs = s.inputs := rfl

@[simp] theorem State.commit_params : (s.commit c ch r sig).params = s.params := rfl
@[simp] theorem State.commit_channels :
    (s.commit c ch r sig).channels = s.channels.set c (ch.record s.trace.length r sig) := rfl
@[simp] theorem State.commit_trace :
    (s.commit c ch r sig).trace = s.trace ++ [outputsOf s.params c (some r) sig] := rfl
@[simp] theorem State.commit_refusals : (s.commit c ch r sig).refusals = s.refusals := rfl
@[simp] theorem State.commit_inputs : (s.commit c ch r sig).inputs = s.inputs := rfl

/-- A channel that is written to hold what it holds is the same channel. -/
theorem set_getElem?_self {α : Type} {l : List α} {n : Nat} {a : α} (h : l[n]? = some a) : l.set n a = l := by
  obtain ⟨hn, rfl⟩ := List.getElem?_eq_some_iff.mp h
  exact List.set_getElem_self hn

/-- The channel an operation is carried out on, after it. -/
theorem State.commit_getElem?_self (h : s.channels[c]? = some ch) :
    (s.commit c ch r sig).channels[c]? = some (ch.record s.trace.length r sig) := by
  obtain ⟨hn, -⟩ := List.getElem?_eq_some_iff.mp h
  simp [hn]

/-- Every other channel, after it. -/
theorem State.commit_getElem?_ne {j : Nat} (h : j ≠ c) :
    (s.commit c ch r sig).channels[j]? = s.channels[j]? := by
  simp [List.getElem?_set_ne (Ne.symm h)]

end Records

end Sys2Proof.Machine
end

