-- ==== Sys2Proof/Laws/Ops.lean ====
section
/-! SUPPORT. What one transaction and one operation can do, said once. -/

namespace Sys2Proof.Machine

section Transact
variable {c : Nat} {f : Regs → Reply} {s : State} {ch : Channel} {r : Regs} {sig : Signals} {why : RefuseReason}

theorem State.transact_none (h : s.channels[c]? = none) : s.transact c f = s.refuse c .badChannel := by
  simp only [State.transact, h]

theorem State.transact_refuse (h : s.channels[c]? = some ch) (hf : f ch.regs = .refuse why) :
    s.transact c f = s.refuse c why := by
  simp only [State.transact, h, hf]

theorem State.transact_done (h : s.channels[c]? = some ch) (hf : f ch.regs = .done r sig) :
    s.transact c f = s.commit c ch r sig := by
  simp only [State.transact, h, hf]

/-- Everything a transaction can do. -/
theorem State.transact_cases (c : Nat) (f : Regs → Reply) (s : State) :
    (s.channels[c]? = none ∧ s.transact c f = s.refuse c .badChannel) ∨
    (∃ ch why, s.channels[c]? = some ch ∧ f ch.regs = .refuse why ∧ s.transact c f = s.refuse c why) ∨
    (∃ ch r sig, s.channels[c]? = some ch ∧ f ch.regs = .done r sig ∧ s.transact c f = s.commit c ch r sig) := by
  cases h : s.channels[c]? with
  | none => exact .inl ⟨rfl, transact_none h⟩
  | some ch =>
    cases hf : f ch.regs with
    | refuse why => exact .inr (.inl ⟨ch, why, rfl, hf, transact_refuse h hf⟩)
    | done r sig => exact .inr (.inr ⟨ch, r, sig, rfl, hf, transact_done h hf⟩)

end Transact

/-- What each operation answers for the registers of its channel; a reserved word is refused whatever they are. -/
def replyOf (p : Params) : Instr → Regs → Reply
  | .nop _ _ => nopReply
  | .edge _ t d dOk => edgeReply p t d dOk
  | .openCh _ _ => openReply p
  | .closeCh _ _ => closeReply
  | .holdDone _ _ => holdDoneReply
  | .reserved _ _ => fun _ => .refuse .reservedEncoding

/-- An operation is a reserved word or one transaction on its channel. -/
theorem exec_eq (i : Instr) (s : State) :
    (∃ c ctl, i = .reserved c ctl) ∨ exec i s = .next (s.transact i.chan (replyOf s.params i)) := by
  cases i with
  | reserved c ctl => exact .inl ⟨c, ctl, rfl⟩
  | nop c ign => exact .inr rfl
  | edge c t d dOk => exact .inr rfl
  | openCh c ign => exact .inr rfl
  | closeCh c ign => exact .inr rfl
  | holdDone c ign => exact .inr rfl

/-- Everything an operation can do: it is refused, for a reserved word, for a channel that does not exist or by its own
rule, or it is carried out on its channel. -/
theorem exec_cases (i : Instr) (s : State) :
    (∃ why, exec i s = .next (s.refuse i.chan why) ∧
      (why = .reservedEncoding ∧ (∃ c ctl, i = .reserved c ctl) ∨
       why = .badChannel ∧ s.channels[i.chan]? = none ∨
       ∃ ch, s.channels[i.chan]? = some ch ∧ replyOf s.params i ch.regs = .refuse why)) ∨
    (∃ ch r sig, s.channels[i.chan]? = some ch ∧ replyOf s.params i ch.regs = .done r sig ∧
      exec i s = .next (s.commit i.chan ch r sig)) := by
  rcases exec_eq i s with ⟨c, ctl, rfl⟩ | he
  · exact .inl ⟨.reservedEncoding, rfl, .inl ⟨rfl, c, ctl, rfl⟩⟩
  · rcases State.transact_cases i.chan (replyOf s.params i) s with
      ⟨h, ht⟩ | ⟨ch, why, h, hr, ht⟩ | ⟨ch, r, sig, h, hr, ht⟩
    · exact .inl ⟨_, by rw [he, ht], .inr (.inl ⟨rfl, h⟩)⟩
    · exact .inl ⟨why, by rw [he, ht], .inr (.inr ⟨ch, h, hr⟩)⟩
    · exact .inr ⟨ch, r, sig, h, hr, by rw [he, ht]⟩

/-- An operation whose channel exists and whose own rule does not refuse it is carried out. -/
theorem exec_done {i : Instr} {s : State} {ch : Channel} {r : Regs} {sig : Signals}
    (h : s.channels[i.chan]? = some ch) (hr : replyOf s.params i ch.regs = .done r sig) :
    exec i s = .next (s.commit i.chan ch r sig) := by
  rcases exec_eq i s with ⟨c, ctl, rfl⟩ | he
  · cases hr
  · rw [he, State.transact_done h hr]

/-- An operation whose own rule refuses it is refused. -/
theorem exec_refuse {i : Instr} {s : State} {ch : Channel} {why : RefuseReason}
    (h : s.channels[i.chan]? = some ch) (hr : replyOf s.params i ch.regs = .refuse why) :
    exec i s = .next (s.refuse i.chan why) := by
  rcases exec_eq i s with ⟨c, ctl, rfl⟩ | he
  · cases hr; rfl
  · rw [he, State.transact_refuse h hr]

end Sys2Proof.Machine
end

