-- ==== Sys2Proof/Laws/Edge.lean ====
section
/-! SUPPORT. What the two stages of EDGE can do (spec/40_edge_classifier.md, spec/41_bit_accumulator.md). -/

namespace Sys2Proof.Machine

/-- The chain of R109, as one case analysis. -/
theorem classify_cases (p : Params) (t : Nat) (r : Regs) :
    (r.tlastValid = false ∧ classify p t r = .normal) ∨
    (r.tlastValid = true ∧ delta p t r.tlast < p.minInterval ∧ classify p t r = .noise) ∨
    (r.tlastValid = true ∧ p.minInterval ≤ delta p t r.tlast ∧ p.maxInterval < delta p t r.tlast ∧
      (r.position ≠ 0 ∧ classify p t r = .frameLoss ∨ r.position = 0 ∧ classify p t r = .normal)) ∨
    (r.tlastValid = true ∧ p.minInterval ≤ delta p t r.tlast ∧ delta p t r.tlast ≤ p.maxInterval ∧
      (r.position = 0 ∧ delta p t r.tlast < p.minIdleBetweenBytes ∧ classify p t r = .spuriousStart ∨
       (r.position ≠ 0 ∨ p.minIdleBetweenBytes ≤ delta p t r.tlast) ∧ classify p t r = .normal)) := by
  unfold classify
  by_cases hv : r.tlastValid = false
  · simp [hv]
  · have hv' : r.tlastValid = true := by simpa using hv
    by_cases h1 : delta p t r.tlast < p.minInterval
    · simp [hv', h1]
    · by_cases h2 : p.maxInterval < delta p t r.tlast
      · by_cases hp : r.position = 0
        · simp [hv', h1, h2, hp, Nat.le_of_not_lt h1]
        · simp [hv', h1, h2, hp, Nat.le_of_not_lt h1]
      · by_cases hp : r.position = 0
        · by_cases h3 : delta p t r.tlast < p.minIdleBetweenBytes
          · simp [hv', h1, h2, hp, h3, Nat.le_of_not_lt h1, Nat.le_of_not_lt h2]
          · simp [hv', h1, h2, hp, h3, Nat.le_of_not_lt h1, Nat.le_of_not_lt h2, Nat.le_of_not_lt h3]
        · simp [hv', h1, h2, hp, Nat.le_of_not_lt h1, Nat.le_of_not_lt h2]

/-- Only the presence of a time and `position` matter when there is none. -/
theorem classify_of_absent {p : Params} {t : Nat} {r : Regs} (h : r.tlastValid = false) : classify p t r = .normal := by
  simp [classify, h]

/-- The dispatch of R135, as one case analysis. -/
theorem accumulate_cases (p : Params) (bit ok : Bool) (r : Regs) :
    (ok = false ∧ accumulate p bit ok r = (r.resync, { diagBits := dgSampleFail })) ∨
    (ok = true ∧ r.position = 0 ∧ accumulate p bit ok r = (Regs.advance p { r with acc := 0 }, {})) ∨
    (ok = true ∧ 1 ≤ r.position ∧ r.position < p.dataPositions ∧
      accumulate p bit ok r = (Regs.advance p { r with acc := setDataBit p r.acc r.position bit }, {})) ∨
    (ok = true ∧ 1 ≤ r.position ∧ r.position = p.dataPositions ∧
      accumulate p bit ok r =
        ({ r with acc := 0, position := 0 }, { byte := some (setDataBit p r.acc r.position bit) })) ∨
    (ok = true ∧ 1 ≤ r.position ∧ p.dataPositions < r.position ∧
      accumulate p bit ok r = (r.resync, { diagBits := dgInvalidState })) := by
  unfold accumulate
  cases ok
  · simp
  · rcases Nat.eq_zero_or_pos r.position with h0 | h0
    · simp [h0]
    · rcases Nat.lt_trichotomy r.position p.dataPositions with h | h | h
      · exact .inr (.inr (.inl ⟨rfl, h0, h, by simp [h, Nat.ne_of_gt h0]⟩))
      · have h0' := Nat.ne_of_gt (h ▸ h0)
        exact .inr (.inr (.inr (.inl ⟨rfl, h0, h, by simp [h, h0']⟩)))
      · exact .inr (.inr (.inr (.inr ⟨rfl, h0, h, by
          simp [Nat.ne_of_gt h0, Nat.ne_of_gt h, Nat.lt_asymm h]⟩)))

/-- What legal parameters say of the register widths. -/
theorem legal_bounds {p : Params} (h : p.legal = true) :
    1 ≤ p.dataPositions ∧ p.dataPositions < 2 ^ p.posWidth ∧ p.dataPositions ≤ p.byteWidth := by
  simp only [Params.legal, Bool.and_eq_true, decide_eq_true_eq] at h
  exact ⟨h.1.1.2, h.1.2, h.2⟩

/-- `position + 1` does not overflow below `DATA_POSITIONS` (R133). -/
theorem Regs.advance_position {p : Params} {r : Regs} (hl : p.legal = true) (h : r.position < p.dataPositions) :
    (r.advance p).position = r.position + 1 :=
  Nat.mod_eq_of_lt (by have := (legal_bounds hl).2.1; omega)

/-- The bit of a data position is a bit of the accumulator. -/
theorem dataBit_fits {p : Params} {x : Nat} (hl : p.legal = true) (h1 : 1 ≤ x) (hx : x ≤ p.dataPositions) :
    2 ^ (x - 1) % 2 ^ p.byteWidth = 2 ^ (x - 1) := by
  have := (legal_bounds hl).2.2
  exact Nat.mod_eq_of_lt (Nat.pow_lt_pow_right (by omega) (by omega))

/-- R132: a data bit lands at its own place, and every other bit stays. -/
theorem testBit_setDataBit {p : Params} {acc x : Nat} (bit : Bool) (hl : p.legal = true) (h1 : 1 ≤ x)
    (hx : x ≤ p.dataPositions) (k : Nat) :
    (setDataBit p acc x bit).testBit k = (acc.testBit k || (bit && decide (k + 1 = x))) := by
  unfold setDataBit
  cases bit
  · simp
  · rw [if_pos rfl, dataBit_fits hl h1 hx, Nat.testBit_or, Nat.testBit_two_pow, Bool.true_and]
    congr 1
    exact decide_eq_decide.mpr (by omega)

/-- R37: with the bits below `position - 1` only, a data bit keeps the accumulator below the next bound. -/
theorem setDataBit_lt {p : Params} {acc x : Nat} (bit : Bool) (hl : p.legal = true) (h1 : 1 ≤ x) (hx : x ≤ p.dataPositions)
    (ha : acc < 2 ^ (x - 1)) : setDataBit p acc x bit < 2 ^ x := by
  have hpow : 2 ^ (x - 1) < 2 ^ x := Nat.pow_lt_pow_right (by omega) (by omega)
  unfold setDataBit
  split
  · rw [dataBit_fits hl h1 hx]; exact Nat.or_lt_two_pow (ha.trans hpow) hpow
  · exact ha.trans hpow

section EdgeReply
variable {p : Params} {t : Nat} {bit ok : Bool} {r : Regs}

theorem edgeReply_of_disarmed (ha : r.armed = false) : edgeReply p t bit ok r = .done r {} := by
  simp [edgeReply, ha]

theorem edgeReply_of_rejected (ha : r.armed = true) (hc : (classify p t r).accepts = false) :
    edgeReply p t bit ok r = .done r { verdict := some (classify p t r) } := by
  unfold edgeReply
  rw [if_neg (by simp [ha])]
  cases h : classify p t r <;> simp_all [Verdict.accepts]

theorem edgeReply_of_normal (ha : r.armed = true) (hc : classify p t r = .normal) :
    edgeReply p t bit ok r = accumulateEdge p .normal 0#3 bit ok (r.acceptAt t) := by
  unfold edgeReply
  rw [if_neg (by simp [ha]), hc]

theorem edgeReply_of_frameLoss (ha : r.armed = true) (hc : classify p t r = .frameLoss) :
    edgeReply p t bit ok r = frameLossEdge p t bit ok r := by
  unfold edgeReply
  rw [if_neg (by simp [ha]), hc]

end EdgeReply

/-- Everything an EDGE can answer (R100): it is never refused. -/
theorem edgeReply_cases (p : Params) (t : Nat) (bit ok : Bool) (r : Regs) :
    (r.armed = false ∧ edgeReply p t bit ok r = .done r {}) ∨
    (r.armed = true ∧
      ((classify p t r = .noise ∧ edgeReply p t bit ok r = .done r { verdict := some .noise }) ∨
       (classify p t r = .spuriousStart ∧ edgeReply p t bit ok r = .done r { verdict := some .spuriousStart }) ∨
       (classify p t r = .normal ∧ edgeReply p t bit ok r = accumulateEdge p .normal 0#3 bit ok (r.acceptAt t)) ∨
       (classify p t r = .frameLoss ∧ p.frameLossEdgeIsStart = true ∧
          edgeReply p t bit ok r = accumulateEdge p .frameLoss dgFrameLoss bit ok (r.resync.acceptAt t)) ∨
       (classify p t r = .frameLoss ∧ p.frameLossEdgeIsStart = false ∧
          edgeReply p t bit ok r =
            .done (r.resync.acceptAt t) { verdict := some .frameLoss, diagBits := dgFrameLoss }))) := by
  unfold edgeReply
  cases ha : r.armed
  · simp
  · cases hc : classify p t r <;> cases hf : p.frameLossEdgeIsStart <;> simp [frameLossEdge, hf]

/-! ### The register widths follow from the invariants -/

/-- R21: `position` is a `POS_WIDTH`-bit number. -/
theorem Regs.Inv.position_fits {p : Params} {r : Regs} (h : r.Inv p) (hl : p.legal = true) : r.position < 2 ^ p.posWidth :=
  Nat.lt_of_le_of_lt h.position_le (legal_bounds hl).2.1

/-- R22: `acc` is a `BYTE_WIDTH`-bit number. -/
theorem Regs.Inv.acc_fits {p : Params} {r : Regs} (h : r.Inv p) (hl : p.legal = true) : r.acc < 2 ^ p.byteWidth := by
  rcases Nat.eq_zero_or_pos r.position with h0 | h0
  · rw [h.acc_at_start h0]; exact Nat.two_pow_pos _
  · have := h.position_le
    have := (legal_bounds hl).2.2
    exact (h.acc_lt h0).trans_le (Nat.pow_le_pow_right (by omega) (by omega))

end Sys2Proof.Machine
end

