-- ==== Sys2Proof/Laws/Lifecycle.lean ====
section
/-! SUPPORT. What each lifecycle operation can answer (spec/42_lifecycle.md). -/

namespace Sys2Proof.Machine

/-- R161-R164, R171. -/
theorem openReply_cases (p : Params) (r : Regs) :
    (r.phase ≠ .closed ∧ openReply p r = .refuse .openNotClosed) ∨
    (r.phase = .closed ∧ p.resetLinePresent = true ∧
      openReply p r = .done { r.initDecoder with resetOut := .idle, phase := .rstIdle } {}) ∨
    (r.phase = .closed ∧ p.resetLinePresent = false ∧
      openReply p r = .done { r.initDecoder with armed := true, phase := .opened } {}) := by
  unfold openReply
  by_cases h : r.phase = .closed
  · cases hl : p.resetLinePresent <;> simp [h]
  · simp [h]

/-- R165, R166, R171. -/
theorem closeReply_cases (r : Regs) :
    (r.phase ≠ .opened ∧ closeReply r = .refuse .closeNotOpen) ∨
    (r.phase = .opened ∧
      closeReply r = .done { Regs.initDecoder { r with armed := false } with phase := .closed } {}) := by
  unfold closeReply
  by_cases h : r.phase = .opened <;> simp [h]

/-- R168-R171. -/
theorem holdDoneReply_cases (r : Regs) :
    ((r.phase = .closed ∨ r.phase = .opened) ∧ holdDoneReply r = .refuse .holdDoneOutOfPhase) ∨
    (r.phase = .rstIdle ∧ holdDoneReply r = .done { r with resetOut := .active, phase := .rstActive } {}) ∨
    (r.phase = .rstActive ∧
      holdDoneReply r = .done { r with resetOut := .idle, armed := true, phase := .opened } {}) := by
  unfold holdDoneReply
  cases h : r.phase <;> simp

end Sys2Proof.Machine
end

