-- ==== Sys2Proof/Laws/PerInstr.lean ====
section
/-! SUPPORT. Facts about every operation as syntax, one lemma per constructor. -/

namespace Sys2Proof.Laws

/-! ### Family `RowMatch`: the encoded word of an operation selects the row of its mnemonic -/

namespace RowMatch

/-- The encoded control word of a well-formed operation selects its row of the table, and a reserved one selects none. -/
def Statement (i : Instr) : Prop :=
  ∀ p : Params, i.wellFormed p = true →
    ((opcodeRows.filter fun row => (encode i).ctl &&& row.2.2 == row.2.1).map fun row => row.1) =
      if i.mnemonic = "(reserved)" then [] else [i.mnemonic]

/-- What `packCtl` gives at each of the five operation codes. -/
theorem rows_packCtl : ∀ x : BitVec 2,
    ((opcodeRows.filter fun row => packCtl x 0#3 &&& row.2.2 == row.2.1).map fun row => row.1) = ["NOP"] ∧
    ((opcodeRows.filter fun row => packCtl x 1#3 &&& row.2.2 == row.2.1).map fun row => row.1) = ["EDGE"] ∧
    ((opcodeRows.filter fun row => packCtl x 2#3 &&& row.2.2 == row.2.1).map fun row => row.1) = ["OPEN"] ∧
    ((opcodeRows.filter fun row => packCtl x 3#3 &&& row.2.2 == row.2.1).map fun row => row.1) = ["CLOSE"] ∧
    ((opcodeRows.filter fun row => packCtl x 4#3 &&& row.2.2 == row.2.1).map fun row => row.1) = ["HOLD_DONE"] := by decide

/-- A reserved word selects no row. -/
theorem rows_reserved : ∀ ctl : CtlWord, reservedCtl ctl = true →
    ((opcodeRows.filter fun row => ctl &&& row.2.2 == row.2.1).map fun row => row.1) = [] := by decide

theorem nop (c : Nat) (ign : BitVec 2) : Statement (.nop c ign) := fun _ _ => (rows_packCtl ign).1

theorem edge (c t : Nat) (d dOk : Bool) : Statement (.edge c t d dOk) :=
  fun _ _ => (rows_packCtl (BitVec.ofBool dOk ++ BitVec.ofBool d)).2.1

theorem openCh (c : Nat) (ign : BitVec 2) : Statement (.openCh c ign) := fun _ _ => (rows_packCtl ign).2.2.1

theorem closeCh (c : Nat) (ign : BitVec 2) : Statement (.closeCh c ign) := fun _ _ => (rows_packCtl ign).2.2.2.1

theorem holdDone (c : Nat) (ign : BitVec 2) : Statement (.holdDone c ign) := fun _ _ => (rows_packCtl ign).2.2.2.2

theorem reserved (c : Nat) (ctl : CtlWord) : Statement (.reserved c ctl) := fun p h => by
  have h' : reservedCtl ctl = true := by simp [Instr.wellFormed] at h; exact h.2
  exact rows_reserved ctl h'

end RowMatch

end Sys2Proof.Laws
end

