-- ==== Sys2Proof/Tests/Slice0.lean ====
section
/-! SUPPORT. Tests of the model's own, with the expected values of spec/95_test_vectors.md, and for every statement with
hypotheses a concrete state and operands that meet all of them. -/

namespace Sys2Proof.Tests

open Sys2Proof.Machine

/-! ### Helpers -/

/-- The registers of an open, armed channel with a reference time. -/
def openRegs (position acc : Nat) (tlast : Nat) : Regs :=
  ⟨position, acc, true, tlast, true, .opened, .idle⟩

/-- The registers of an open, armed channel whose next edge is trusted. -/
def trustedRegs (acc : Nat) : Regs := ⟨0, acc, false, 0, true, .opened, .idle⟩

/-- The registers of an unarmed channel in a phase. -/
def idleRegs (phase : Phase) (line : Level) : Regs := ⟨0, 0, false, 0, false, phase, line⟩

/-- A machine with one channel, at the start of a run. -/
def machine (p : Params) (r : Regs) : State := ⟨p, [⟨r, [], []⟩], [], [], []⟩

/-- The machine as the spec's vectors take it, at the parameters of spec/95_test_vectors.md §0. -/
def m (r : Regs) : State := machine Params.source r

def withLine : Params := { Params.source with resetLinePresent := true }
def consuming : Params := { Params.source with frameLossEdgeIsStart := false }
def idle100 : Params := { Params.source with minIdleBetweenBytes := 100 }
def twoChannels : Params := { Params.source with numChannels := 2 }

/-- A block with other widths and a shorter frame, all R8's parameters. -/
def short : Params := { Params.source with posWidth := 3, byteWidth := 6, dataPositions := 5 }

/-- Two channels: the first in the middle of a byte, the second closed. -/
def two : State := ⟨twoChannels, [⟨openRegs 3 1 100, [], []⟩, ⟨idleRegs .closed .idle, [], []⟩], [], [], []⟩

/-- What one row of a vector shows: the signals of the operation, the registers after it, the mark. -/
structure Row where
  verdict  : Option Verdict
  byte     : Option Nat
  diagBits : DiagBits
  regs     : Regs
  refusals : List RefuseReason
  deriving DecidableEq, Repr

/-- What one presented word does to a machine with one channel. -/
def after (s : State) (ctl : CtlWord) (time : Nat) : Option Row :=
  match step { s with inputs := [⟨ctl, time, 0⟩] } with
  | .next t =>
    match t.trace.getLast?, t.channels[0]? with
    | some e, some ch => some ⟨e.verdict, e.byte, e.diagBits, ch.regs, t.refusals⟩
    | _, _ => none
  | _ => none

/-! ### Well-formedness: one ill-formed term for each check -/

theorem test_wf_refuses_wide_time : (Instr.edge 0 (2 ^ 32) true true).wellFormed Params.source = false := by decide
theorem test_wf_refuses_named_word : (Instr.reserved 0 0x11#8).wellFormed Params.source = false := by decide
theorem test_wf_refuses_channel_operand :
    (Instr.nop 1 0#2).wellFormed Params.source = false ∧ (Instr.edge 1 0 true true).wellFormed Params.source = false ∧
    (Instr.openCh 1 0#2).wellFormed Params.source = false ∧ (Instr.closeCh 1 0#2).wellFormed Params.source = false ∧
    (Instr.holdDone 1 0#2).wellFormed Params.source = false ∧
    (Instr.reserved 1 0x05#8).wellFormed Params.source = false := by decide
theorem test_wf_takes_any_channel_of_many : (Instr.nop 7 0#2).wellFormed twoChannels = true := by decide

/-! ### Decoding and encoding: words written out bit by bit from R70, R71 -/

theorem test_decode_nop : decode Params.source ⟨0b00010000#8, 9, 0⟩ = .nop 0 2#2 := by decide
theorem test_decode_edge : decode Params.source ⟨0b00011001#8, 50, 0⟩ = .edge 0 50 true true := by decide
theorem test_decode_open : decode Params.source ⟨0b00000010#8, 0, 0⟩ = .openCh 0 0#2 := by decide
theorem test_decode_close : decode Params.source ⟨0b00001011#8, 0, 0⟩ = .closeCh 0 1#2 := by decide
theorem test_decode_hold_done : decode Params.source ⟨0b00011100#8, 0, 0⟩ = .holdDone 0 3#2 := by decide
theorem test_decode_reserved_op : decode Params.source ⟨0b00001111#8, 0, 0⟩ = .reserved 0 0x0F#8 := by decide
theorem test_decode_reserved_rsv : decode Params.source ⟨0b10000010#8, 0, 0⟩ = .reserved 0 0x82#8 := by decide
/-- V-ENC, last line: of the 256 control words 20 select an operation and 236 are reserved. -/
theorem test_decode_counts :
    ((List.range 256).filter fun n => reservedCtl (BitVec.ofNat 8 n)).length = 236 := by rfl
theorem test_decode_channel : decode twoChannels ⟨0x02#8, 0, 2⟩ = .openCh 2 0#2 := by decide
theorem test_encode_edge : encode (.edge 0 50 false true) = ⟨0b00010001#8, 50, 0⟩ := by decide
theorem test_encode_hold_done : encode (.holdDone 1 0#2) = ⟨0b00000100#8, 0, 1⟩ := by decide
/-- L1-1: the edges of `FRAME t0=0 dt=50 byte=0x05` (R82). -/
theorem test_frame : (frame Params.source 0 0 50 0x05).take 4 =
    [.edge 0 0 false true, .edge 0 50 true true, .edge 0 100 false true, .edge 0 150 true true] := by decide

/-- Every row of spec/opcode_table.json, as the first operation after reset. -/
theorem test_table_words_run_from_reset :
    (decodeTableWord 8 0x00, decodeTableWord 8 0x19, decodeTableWord 8 0x02) =
      (some (.nop 0 0#2), some (.edge 0 0 true true), some (.openCh 0 0#2)) ∧
    (∃ t, step (State.reset.withFetchWord 8 0x02) = .next t ∧
      t.channels.map (fun ch => ch.regs.phase) = [.opened] ∧ t.refusals = [] ∧ t.inputs = []) ∧
    (∃ t, step (State.reset.withFetchWord 8 0x05) = .next t ∧ t.refusals = [.reservedEncoding]) :=
  ⟨by decide, ⟨_, rfl, by decide⟩, ⟨_, rfl, by decide⟩⟩

/-! ### Operations: single steps of spec/95_test_vectors.md -/

/-- V-CLS-03, V-CLS-06, V-CLS-07, V-CLS-08, V-CLS-10, V-CLS-13a, V-CLS-16, V-CLS-19. -/
theorem test_edge_classifier :
    after (m (openRegs 3 1 100)) 0x19#8 113 = some ⟨some .normal, none, 0#3, openRegs 4 5 113, []⟩ ∧
    after (m (openRegs 3 1 100)) 0x19#8 221 = some ⟨some .frameLoss, none, 1#3, openRegs 1 0 221, []⟩ ∧
    after (m (openRegs 0 0 400)) 0x11#8 412 = some ⟨some .noise, none, 0#3, openRegs 0 0 400, []⟩ ∧
    after (m (openRegs 0 0 400)) 0x11#8 413 = some ⟨some .spuriousStart, none, 0#3, openRegs 0 0 400, []⟩ ∧
    after (m (openRegs 0 0 400)) 0x11#8 521 = some ⟨some .normal, none, 0#3, openRegs 1 0 521, []⟩ ∧
    after (machine idle100 (openRegs 0 0 400)) 0x11#8 499 =
      some ⟨some .spuriousStart, none, 0#3, openRegs 0 0 400, []⟩ ∧
    after (m (openRegs 3 1 4294967280)) 0x19#8 4294967328 =
      some ⟨some .normal, none, 0#3, openRegs 4 5 32, []⟩ ∧
    after (m (idleRegs .closed .idle)) 0x19#8 500 = some ⟨none, none, 0#3, idleRegs .closed .idle, []⟩ := by decide

/-- V-ACC-02, V-ACC-04, V-ACC-06, V-ACC-07, V-ACC-08, V-ACC-10, V-ACC-11, V-ACC-13, V-ACC-16. -/
theorem test_edge_accumulator :
    after (m (trustedRegs 0x33)) 0x11#8 0 = some ⟨some .normal, none, 0#3, openRegs 1 0 0, []⟩ ∧
    after (m (openRegs 7 0 100)) 0x19#8 150 = some ⟨some .normal, none, 0#3, openRegs 8 0x40 150, []⟩ ∧
    after (m (openRegs 8 0x7F 100)) 0x19#8 150 =
      some ⟨some .normal, some 0xFF, 0#3, openRegs 0 0 150, []⟩ ∧
    after (m (openRegs 2 2 100)) 0x11#8 150 = some ⟨some .normal, none, 0#3, openRegs 3 2 150, []⟩ ∧
    after (m (openRegs 5 5 100)) 0x01#8 150 =
      some ⟨some .normal, none, 2#3, { trustedRegs 0 with tlast := 150 }, []⟩ ∧
    after (m (openRegs 5 5 100)) 0x01#8 500 =
      some ⟨some .frameLoss, none, 3#3, { trustedRegs 0 with tlast := 500 }, []⟩ ∧
    after (m (openRegs 12 0 100)) 0x19#8 150 =
      some ⟨some .normal, none, 4#3, { trustedRegs 0 with tlast := 150 }, []⟩ ∧
    after (m (openRegs 12 0 100)) 0x11#8 600 = some ⟨some .frameLoss, none, 1#3, openRegs 1 0 600, []⟩ ∧
    after (m (openRegs 9 0 100)) 0x01#8 150 =
      some ⟨some .normal, none, 2#3, { trustedRegs 0 with tlast := 150 }, []⟩ := by decide

/-- R8, log entry 23: five data positions. The fifth data bit delivers the byte, and position 6 is invalid. -/
theorem test_edge_other_widths :
    after (machine short (openRegs 4 7 100)) 0x19#8 150 = some ⟨some .normal, none, 0#3, openRegs 5 15 150, []⟩ ∧
    after (machine short (openRegs 5 15 100)) 0x19#8 150 = some ⟨some .normal, some 31, 0#3, openRegs 0 0 150, []⟩ ∧
    after (machine short (openRegs 6 0 100)) 0x19#8 150 =
      some ⟨some .normal, none, 4#3, { trustedRegs 0 with tlast := 150 }, []⟩ := by decide

/-- V-LC-01, V-LC-02 row 0, V-LC-03. -/
theorem test_open :
    after (m (idleRegs .closed .idle)) 0x02#8 0 = some ⟨none, none, 0#3, trustedRegs 0, []⟩ ∧
    after (machine withLine (idleRegs .closed .active)) 0x02#8 0 =
      some ⟨none, none, 0#3, idleRegs .rstIdle .idle, []⟩ ∧
    after (m (openRegs 2 1 100)) 0x02#8 0 = some ⟨none, none, 0#3, openRegs 2 1 100, [.openNotClosed]⟩ := by decide

/-- V-LC-04, V-LC-05, V-LC-07. -/
theorem test_close :
    after (m (openRegs 4 5 0)) 0x03#8 0 = some ⟨none, none, 0#3, idleRegs .closed .idle, []⟩ ∧
    after (m (idleRegs .closed .idle)) 0x03#8 0 = some ⟨none, none, 0#3, idleRegs .closed .idle, [.closeNotOpen]⟩ ∧
    after (machine withLine (idleRegs .rstIdle .idle)) 0x03#8 0 =
      some ⟨none, none, 0#3, idleRegs .rstIdle .idle, [.closeNotOpen]⟩ := by decide

/-- V-LC-02 rows 2 and 4, V-LC-06. -/
theorem test_hold_done :
    after (machine withLine (idleRegs .rstIdle .idle)) 0x04#8 0 =
      some ⟨none, none, 0#3, idleRegs .rstActive .active, []⟩ ∧
    after (machine withLine (idleRegs .rstActive .active)) 0x04#8 0 =
      some ⟨none, none, 0#3, trustedRegs 0, []⟩ ∧
    after (m (trustedRegs 0)) 0x04#8 0 = some ⟨none, none, 0#3, trustedRegs 0, [.holdDoneOutOfPhase]⟩ := by decide

/-- V-LC-08. -/
theorem test_nop : after (m (openRegs 6 0x15 300)) 0x18#8 0 =
    some ⟨none, none, 0#3, openRegs 6 0x15 300, []⟩ := by decide

/-- V-ENC-11, first row. -/
theorem test_reserved : after (m (openRegs 2 1 100)) 0x21#8 150 =
    some ⟨none, none, 0#3, openRegs 2 1 100, [.reservedEncoding]⟩ := by decide

/-- V-CH-01, row 20: a channel that does not exist. -/
theorem test_bad_channel : ∃ t, exec (.nop 2 0#2) two = .next t ∧ t.refusals = [.badChannel] ∧ t.channels = two.channels :=
  ⟨_, rfl, by decide⟩

/-- Ports (R30): the codes of R76 on the wires, and a reset line whose IDLE level is 1. -/
theorem test_ports :
    (OpOutputs.verdictLines 3 ⟨0, none, some .spuriousStart, 0#3, some true, none⟩) = 0b10#2 ∧
    (OpOutputs.diagLines 3 ⟨0, none, some .frameLoss, 3#3, some true, none⟩) = 0b011#3 ∧
    resetLineLevel { withLine with resetIdleLevel := true } .active = some false ∧
    Phase.code .rstActive = 2#2 := by decide

/-! ### Witnesses: concrete states and operands that meet the hypotheses of the statements

The channel that the hypothesis `s.channels[c]? = some ch` names is channel 0 of `m r` or `machine p r`. -/

/-- The channel of a machine with one channel. -/
def ch (r : Regs) : Channel := ⟨r, [], []⟩

theorem test_witness_machine_channel (p : Params) (r : Regs) : (machine p r).channels[0]? = some (ch r) := rfl

/-- `params.legal`, a premise of several statements: it holds of the parameters of every witness below. -/
theorem test_witness_legal : Params.source.legal = true ∧ withLine.legal = true ∧ consuming.legal = true ∧
    idle100.legal = true ∧ twoChannels.legal = true ∧ short.legal = true := by decide

theorem machine_inv {p : Params} {r : Regs} (hl : p.legal = true) (hn : p.numChannels = 1) (hr : r.Inv p) :
    (machine p r).Inv := by
  have hc : ∀ c ∈ (machine p r).channels, c = ch r := fun c hc => by simpa [machine, ch] using hc
  exact ⟨hl, hn.symm, fun c h => hc c h ▸ hr, fun c h b hb => absurd hb (by simp [hc c h, ch])⟩

/-- The invariant holds in the middle of a byte, before a last data bit, and in every phase. -/
theorem test_witness_inv :
    (m (openRegs 3 1 100)).Inv ∧ (m (openRegs 8 0x7F 1000)).Inv ∧ (m (trustedRegs 0)).Inv ∧
    (m (idleRegs .closed .active)).Inv ∧ (machine withLine (idleRegs .rstIdle .idle)).Inv ∧
    (machine withLine (idleRegs .rstActive .active)).Inv ∧ (machine withLine (idleRegs .closed .active)).Inv ∧
    (machine short (openRegs 5 15 100)).Inv := by
  refine ⟨?_, ?_, ?_, ?_, ?_, ?_, ?_, ?_⟩ <;> refine machine_inv rfl rfl ?_ <;> constructor <;> decide

/-- DecodeOfEncodeIsTheOperation, with every operand at the end of its range. -/
theorem test_witness_DecodeOfEncodeIsTheOperation :
    (Instr.edge 0 (2 ^ 32 - 1) true false).wellFormed Params.source = true ∧
    (Instr.nop 5 3#2).wellFormed twoChannels = true ∧ (Instr.openCh 0 0#2).wellFormed Params.source = true ∧
    (Instr.closeCh 0 1#2).wellFormed Params.source = true ∧ (Instr.holdDone 0 2#2).wellFormed Params.source = true ∧
    (Instr.reserved 0 0x05#8).wellFormed Params.source = true ∧
    (Instr.reserved 0 0xFF#8).wellFormed Params.source = true := by decide

theorem test_witness_EncodeOfDecodeKeepsTheWord :
    2 ^ 32 - 1 < 2 ^ Params.source.tsWidth ∧ (decode Params.source ⟨0x09#8, 2 ^ 32 - 1, 0⟩).mnemonic = "EDGE" ∧
    (1 < twoChannels.numChannels ∧ (decode twoChannels ⟨0x19#8, 0, 7⟩).mnemonic = "EDGE") := by decide

theorem test_witness_EveryWordSelectsOneRowOrIsReserved :
    reservedCtl 0x05#8 = true ∧ reservedCtl 0x1F#8 = true ∧ reservedCtl 0x20#8 = true ∧ reservedCtl 0xFF#8 = true ∧
    reservedCtl 0x00#8 = false ∧ reservedCtl 0x1C#8 = false ∧ reservedCtl 0x01#8 = false := by decide

/-- IgnoredBitsHaveNoEffect (a word of each operation but EDGE, and reserved ones), FailedSampleCarriesNoData. -/
theorem test_witness_IgnoredBits :
    (∀ w ∈ [0x00#8, 0x02#8, 0x03#8, 0x04#8, 0x05#8, 0x20#8], ctlOp w ≠ 1#3) ∧ (0x01#8).getLsbD 4 = false ∧
    (0x09#8).getLsbD 4 = false := by decide

theorem test_witness_StepRunsTheDecodedOperation :
    (State.reset.withFetchWord 8 0x02).inputs = ⟨0x02#8, 0, 0⟩ :: [] ∧ State.reset.inputs = [] := by decide

theorem test_witness_RunAppliesOperationsInOrder :
    ({ State.reset with inputs := [⟨0x02#8, 0, 0⟩, ⟨0x11#8, 5, 0⟩, ⟨0x00#8, 0, 0⟩] } : State).inputs =
      [⟨0x02#8, 0, 0⟩, ⟨0x11#8, 5, 0⟩] ++ [⟨0x00#8, 0, 0⟩] := by decide

theorem test_witness_DisarmedEdgeHasNoEffect :
    (m (idleRegs .closed .idle)).channels[0]? = some (ch (idleRegs .closed .idle)) ∧
    (idleRegs .closed .idle).armed = false := by decide

/-- FirstTestThatHoldsGivesTheVerdict: one witness per clause, at the boundaries of R109 (12, 13, 120, 121 µs; 99, 100 µs with
`MIN_IDLE_BETWEEN_BYTES` = 100). -/
theorem test_witness_FirstTestThatHoldsGivesTheVerdict :
    (trustedRegs 0).armed = true ∧ (trustedRegs 0).tlastValid = false ∧
    (∀ x ∈ List.range 16, (openRegs x 0 100).armed = true ∧ (openRegs x 0 100).tlastValid = true) ∧
    delta Params.source 112 100 < Params.source.minInterval ∧
    (Params.source.minInterval ≤ delta Params.source 221 100 ∧ Params.source.maxInterval < delta Params.source 221 100 ∧
      (openRegs 1 0 100).position ≠ 0 ∧ (openRegs 15 0 100).position ≠ 0 ∧
      (openRegs 0 0 100).position = 0) ∧
    (Params.source.minInterval ≤ delta Params.source 113 100 ∧ delta Params.source 220 100 ≤ Params.source.maxInterval ∧
      delta Params.source 220 100 < Params.source.minIdleBetweenBytes ∧ delta idle100 199 100 < idle100.minIdleBetweenBytes ∧
      idle100.minIdleBetweenBytes ≤ delta idle100 200 100 ∧ delta idle100 200 100 ≤ idle100.maxInterval) := by decide

theorem test_witness_IdleThresholdAboveTheBandIsInvisible :
    Params.source.maxInterval < Params.source.minIdleBetweenBytes ∧ Params.source.maxInterval < 121 ∧
    (openRegs 0 0 100).tlastValid = true ∧ (openRegs 0 0 100).position = 0 ∧
    Params.source.minInterval ≤ delta Params.source 113 100 ∧ delta Params.source 220 100 ≤ Params.source.maxInterval ∧
    Params.source.maxInterval < delta Params.source 221 100 := by decide

theorem test_witness_SourceValuesGiveTheTableOfVerdicts :
    Params.source.minInterval = 13 ∧ Params.source.maxInterval = 120 ∧ Params.source.minIdleBetweenBytes = 200 ∧
    (openRegs 0 0 100).tlastValid = true ∧ delta Params.source 100 100 ≤ 12 ∧ delta Params.source 112 100 = 12 ∧
    delta Params.source 113 100 = 13 ∧ delta Params.source 220 100 = 120 ∧ 121 ≤ delta Params.source 221 100 := by decide

/-- DeltaIsTheElapsedTimeModuloTheWidth: the longest gap that is told, and the first that aliases (V-CLS-17). -/
theorem test_witness_DeltaIsTheElapsedTimeModuloTheWidth :
    (7 ≤ 7 + (2 ^ 32 - 1) ∧ 7 + (2 ^ 32 - 1) - 7 < 2 ^ Params.source.tsWidth) ∧
    delta { Params.source with tsWidth := 16 } (busTime { Params.source with tsWidth := 16 } 65541)
      (busTime { Params.source with tsWidth := 16 } 0) = 5 := by decide

theorem test_witness_RejectedEdgeOnlyReportsItsVerdict :
    classify Params.source 112 (openRegs 3 1 100) = .noise ∧ (openRegs 3 1 100).armed = true ∧
    classify Params.source 220 (openRegs 0 0 100) = .spuriousStart ∧ (openRegs 0 0 100).armed = true := by decide

theorem test_witness_NoiseChangesNoRegister :
    (openRegs 3 1 100).armed = true ∧ (openRegs 3 1 100).tlastValid = true ∧
    delta Params.source 112 100 < Params.source.minInterval ∧
    ∃ u, exec (.edge 0 112 true true) (m (openRegs 3 1 100)) = .next u := ⟨rfl, rfl, by decide, _, rfl⟩

/-- RejectedRunIsMeasuredFromOneEdge: V-CLS-15, whose edges are 5 µs apart, with one at the boundary; and at position 0 a run
of noise and of spurious starts, at both ends of the band. -/
theorem test_witness_RejectedRunIsMeasuredFromOneEdge :
    (openRegs 5 5 1000).armed = true ∧
    (∀ e ∈ [(1005, true, true), (1010, true, false), (1012, false, true)],
      classify Params.source e.1 (openRegs 5 5 1000) = .noise) ∧
    (openRegs 0 0 1000).armed = true ∧
    (∀ e ∈ [(1012, true, true), (1013, true, false), (1060, false, true), (1120, true, true)],
      classify Params.source e.1 (openRegs 0 0 1000) = .noise ∨
        classify Params.source e.1 (openRegs 0 0 1000) = .spuriousStart) ∧
    classify Params.source 1120 (openRegs 0 0 1000) = .spuriousStart := by decide

theorem test_witness_StartBitOpensAFrame :
    (trustedRegs 0x33).armed = true ∧ classify Params.source 0 (trustedRegs 0x33) = .normal ∧
    (trustedRegs 0x33).position = 0 ∧
    classify Params.source 521 (openRegs 0 0 400) = .normal ∧ (openRegs 0 0 400).position = 0 := by decide

/-- DataBitLandsAtItsPlace: the first and the last of the positions it is about. -/
theorem test_witness_DataBitLandsAtItsPlace :
    ∀ x ∈ [1, 7], (openRegs x 0 100).armed = true ∧ classify Params.source 150 (openRegs x 0 100) = .normal ∧
      1 ≤ (openRegs x 0 100).position ∧ (openRegs x 0 100).position < Params.source.dataPositions := by decide

theorem test_witness_LastDataBitEmitsTheByte :
    (openRegs 8 0x7F 100).armed = true ∧ classify Params.source 150 (openRegs 8 0x7F 100) = .normal ∧
    (openRegs 8 0x7F 100).position = Params.source.dataPositions ∧
    (openRegs 5 15 100).position = short.dataPositions ∧ classify short 150 (openRegs 5 15 100) = .normal := by decide

/-- SamplingFailureResynchronises: at every position, on an edge classified NORMAL, under both readings of I6, and on a frame
loss. -/
theorem test_witness_SamplingFailureResynchronises :
    Params.source.frameLossEdgeIsStart = true ∧ classify Params.source 500 (trustedRegs 0) = .normal ∧
    consuming.frameLossEdgeIsStart = false ∧
    ∀ x ∈ List.range' 1 15, (openRegs x 5 100).armed = true ∧
      classify consuming 150 (openRegs x 5 100) = .normal ∧
      classify Params.source 150 (openRegs x 5 100) = .normal ∧
      classify Params.source 500 (openRegs x 5 100) = .frameLoss := by decide

/-- InvalidPositionResynchronises: the first and the last of the invalid positions. -/
theorem test_witness_InvalidPositionResynchronises :
    ∀ x ∈ [9, 15], (openRegs x 0 100).armed = true ∧ classify Params.source 150 (openRegs x 0 100) = .normal ∧
      Params.source.dataPositions < (openRegs x 0 100).position := by decide

theorem test_witness_FrameLossEdgeStartsANewFrame :
    Params.source.frameLossEdgeIsStart = true ∧ ∀ x ∈ [1, 8, 12],
      (openRegs x 0 100).armed = true ∧ classify Params.source 221 (openRegs x 0 100) = .frameLoss := by decide

theorem test_witness_FrameLossEdgeMayBeConsumed :
    consuming.frameLossEdgeIsStart = false ∧ (openRegs 3 1 100).armed = true ∧
    classify consuming 221 (openRegs 3 1 100) = .frameLoss := by decide

/-- EdgeAfterAResynchronisationIsTrusted: a sampling failure, and an invalid state. -/
theorem test_witness_EdgeAfterAResynchronisationIsTrusted :
    (∃ u e, exec (.edge 0 150 true false) (m (openRegs 3 1 100)) = .next u ∧ u.trace = [] ++ [e] ∧
      e.diagBits &&& 0b110#3 ≠ 0#3) ∧
    (∃ u e, exec (.edge 0 150 true true) (m (openRegs 9 1 100)) = .next u ∧ u.trace = [] ++ [e] ∧
      e.diagBits &&& 0b110#3 ≠ 0#3) :=
  ⟨⟨_, _, rfl, rfl, by decide⟩, ⟨_, _, rfl, rfl, by decide⟩⟩

/-- ErrorsStayInsideTheirEdge: an error by its verdict alone, and one by its diagnostic alone. -/
theorem test_witness_ErrorsStayInsideTheirEdge :
    (∃ u, exec (.edge 0 105 true true) (m (openRegs 3 1 100)) = .next u ∧
      u.trace.map (fun e => (e.verdict, e.diagBits)) = [(some .noise, 0#3)]) ∧
    (∃ u, exec (.edge 0 150 true false) (m (openRegs 8 1 100)) = .next u ∧
      u.trace.map (fun e => (e.verdict, e.diagBits)) = [(some .normal, 2#3)]) :=
  ⟨⟨_, rfl, by decide⟩, ⟨_, rfl, by decide⟩⟩

theorem test_witness_DiagnosticSetsThatOccur :
    ∃ u e, exec (.edge 0 500 true false) (m (openRegs 5 5 100)) = .next u ∧ u.trace = [] ++ [e] ∧ e.diagBits = 3#3 :=
  ⟨_, _, rfl, rfl, by decide⟩

/-- OutGrowsExactlyAtTheLastDataBit: an EDGE that emits, and one that does not. -/
theorem test_witness_OutGrowsExactlyAtTheLastDataBit :
    (∃ u v, exec (.edge 0 150 true true) (m (openRegs 8 0x7F 100)) = .next u ∧ u.channels[0]? = some v ∧
      v.out = [0xFF]) ∧
    (∃ u v, exec (.edge 0 150 true false) (m (openRegs 8 0x7F 100)) = .next u ∧ u.channels[0]? = some v ∧
      v.out = []) :=
  ⟨⟨_, _, rfl, rfl, by decide⟩, ⟨_, _, rfl, rfl, by decide⟩⟩

/-- OpenWithoutResetLineArmsAtOnce, OpenWithResetLineStartsThePulse. -/
theorem test_witness_Open :
    (idleRegs .closed .active).phase = .closed ∧ Params.source.resetLinePresent = false ∧
    withLine.resetLinePresent = true := by decide

/-- FirstHoldDoneDrivesTheLineActive, SecondHoldDoneArmsTheChannel. -/
theorem test_witness_HoldDone :
    (idleRegs .rstIdle .idle).phase = .rstIdle ∧ (idleRegs .rstActive .active).phase = .rstActive ∧
    (machine withLine (idleRegs .rstActive .active)).Inv := ⟨rfl, rfl, test_witness_inv.2.2.2.2.2.1⟩

theorem test_witness_CloseDiscardsThePartialByte : (openRegs 4 5 150).phase = .opened := by decide

/-- ReservedWordIsRefused: the first and the last reserved `op`, and the first and the last nonzero `rsv`. -/
theorem test_witness_ReservedWordIsRefused :
    ctlOp 0x05#8 = 5#3 ∧ ctlOp 0x1F#8 = 7#3 ∧ ctlRsv 0x20#8 ≠ 0#3 ∧ ctlRsv 0xF8#8 ≠ 0#3 := by decide

/-- OutOfContractLifecycleIsRefused: one phase for each clause. NopChangesNothing has no hypothesis but the channel. -/
theorem test_witness_OutOfContractLifecycleIsRefused :
    (openRegs 2 1 100).phase ≠ .closed ∧ (idleRegs .rstIdle .idle).phase ≠ .opened ∧
    (idleRegs .closed .idle).phase = .closed ∧ (trustedRegs 0).phase = .opened := by decide

/-- ChannelOutOfRangeIsRefused: the first channel that does not exist, for an operation and for a reserved word. -/
theorem test_witness_ChannelOutOfRangeIsRefused :
    (m (trustedRegs 0)).Inv ∧ Params.source.numChannels ≤ (Instr.openCh 1 0#2).chan ∧
    (Instr.openCh 1 0#2).mnemonic ≠ "(reserved)" ∧ Params.source.numChannels ≤ (Instr.reserved 1 5#8).chan :=
  ⟨test_witness_inv.2.2.1, by decide, by decide, by decide⟩

/-- PhaseChangesAreTheRowsOfTheTable, StateIsResetBeforeArming, FirstEdgeAfterArmingOpensAFrame, InterruptEnableFollowsArmed:
an OPEN that arms, from a state with the invariant (`test_witness_inv`). -/
theorem test_witness_OpenArms :
    (m (idleRegs .closed .active)).Inv ∧
    ∃ u v e, exec (.openCh 0 0#2) (m (idleRegs .closed .active)) = .next u ∧ u.channels[0]? = some v ∧
      u.trace = [] ++ [e] ∧ v.regs.phase ≠ (idleRegs .closed .active).phase ∧
      (idleRegs .closed .active).armed = false ∧ v.regs.armed = true :=
  ⟨test_witness_inv.2.2.2.1, _, _, _, rfl, rfl, rfl, by decide, by decide, by decide⟩

/-- The other rows of R172: OPEN with a line, both HOLD_DONEs, and a CLOSE, which disarms. -/
theorem test_witness_PhaseChangesAreTheRowsOfTheTable :
    (∃ u, exec (.openCh 0 0#2) (machine withLine (idleRegs .closed .active)) = .next u ∧
      u.channels.map (fun c => c.regs.phase) = [.rstIdle]) ∧
    (∃ u, exec (.holdDone 0 0#2) (machine withLine (idleRegs .rstIdle .idle)) = .next u ∧
      u.channels.map (fun c => c.regs.phase) = [.rstActive]) ∧
    (∃ u, exec (.holdDone 0 0#2) (machine withLine (idleRegs .rstActive .active)) = .next u ∧
      u.channels.map (fun c => (c.regs.phase, c.regs.armed)) = [(.opened, true)]) ∧
    (∃ u, exec (.closeCh 0 0#2) (m (openRegs 3 1 100)) = .next u ∧
      u.channels.map (fun c => (c.regs.phase, c.regs.armed)) = [(.closed, false)]) :=
  ⟨⟨_, rfl, by decide⟩, ⟨_, rfl, by decide⟩, ⟨_, rfl, by decide⟩, ⟨_, rfl, by decide⟩⟩

/-- ClosedChannelWaitsForOpen: every kind of operation, and an OPEN of another channel. -/
theorem test_witness_ClosedChannelWaitsForOpen :
    (idleRegs .closed .idle).phase = .closed ∧ (idleRegs .closed .idle).armed = false ∧
    ∀ i ∈ [Instr.nop 0 0#2, .edge 0 5 true true, .closeCh 0 0#2, .holdDone 0 0#2, .reserved 0 5#8, .openCh 1 0#2],
      i.mnemonic = "OPEN" → i.chan ≠ 0 := by decide

/-- RefusalMarkIsNeverCleared, LifecycleDutyIsWhatIsNotRefused: an operation that keeps the duty, and one that breaks it. -/
theorem test_witness_LifecycleDutyIsWhatIsNotRefused :
    (∃ u, exec (.closeCh 0 0#2) (m (trustedRegs 0)) = .next u ∧ u.refusals = []) ∧
    (∃ u, exec (.closeCh 0 0#2) (m (idleRegs .closed .idle)) = .next u ∧ u.refusals = [.closeNotOpen]) :=
  ⟨⟨_, rfl, by decide⟩, ⟨_, rfl, by decide⟩⟩

/-- StepKeepsTheInvariants: a state with the invariant, in the middle of a byte, and a step from it. -/
theorem test_witness_StepKeepsTheInvariants :
    ∃ t, ((m (openRegs 3 1 100)).withFetchWord 8 0x19).Inv ∧
      step ((m (openRegs 3 1 100)).withFetchWord 8 0x19) = .next t :=
  ⟨_, ⟨test_witness_inv.1.legal, test_witness_inv.1.channel_count, test_witness_inv.1.regs,
    test_witness_inv.1.out_lt⟩, rfl⟩

/-- One channel after OPEN and `n` accepted edges, the last at 7 µs, about to take the edge that the queue holds. -/
def started (n acc : Nat) : State :=
  ⟨Params.source, [⟨openRegs n acc 7, [], []⟩],
    ⟨0, none, none, 0#3, some true, none⟩ :: List.replicate n ⟨0, none, some .normal, 0#3, some true, none⟩, [],
    [⟨0x19#8, 57, 0⟩]⟩

theorem started_channel {n acc c : Nat} {x : Channel} (h : (started n acc).channels[c]? = some x) :
    c = 0 ∧ x = ⟨openRegs n acc 7, [], []⟩ := by
  cases c with
  | zero => exact ⟨rfl, by simpa [started] using h.symm⟩
  | succ k => simp [started] at h

/-- StepKeepsTheRecordOfTheRun. -/
theorem test_witness_StepKeepsTheRecordOfTheRun : (started 1 0).RecordsRun ∧ ∃ t, step (started 1 0) = .next t :=
  ⟨⟨fun c x h => by obtain ⟨rfl, rfl⟩ := started_channel h; decide,
    fun c x h => by obtain ⟨rfl, rfl⟩ := started_channel h; decide⟩, _, rfl⟩

theorem started_inv {n acc : Nat} (h : (openRegs n acc 7).Inv Params.source) : (started n acc).Inv := by
  have hc : ∀ x ∈ (started n acc).channels, x = ⟨openRegs n acc 7, [], []⟩ := fun x hx => by simpa [started] using hx
  exact ⟨rfl, rfl, fun x hx => hc x hx ▸ h, fun x hx b hb => absurd hb (by simp [hc x hx])⟩

/-- PositionCountsTheAdvancesSinceStart: after the start bit, and where the step delivers a byte. -/
theorem test_witness_PositionCountsTheAdvancesSinceStart :
    ((started 1 0).Inv ∧ (started 1 0).CountsAdvances ∧ ∃ t, step (started 1 0) = .next t) ∧
    (started 8 0x7F).Inv ∧ (started 8 0x7F).CountsAdvances ∧
    ∃ t e, step (started 8 0x7F) = .next t ∧ t.trace = (started 8 0x7F).trace ++ [e] ∧ e.byte = some 0xFF :=
  ⟨⟨started_inv (by constructor <;> decide), fun c x h => by obtain ⟨rfl, rfl⟩ := started_channel h; decide, _, rfl⟩,
    started_inv (by constructor <;> decide), fun c x h => by obtain ⟨rfl, rfl⟩ := started_channel h; decide,
    _, _, rfl, rfl, by decide⟩

theorem test_witness_OtherChannelsAreUntouched :
    (1 : Nat) ≠ (Instr.edge 0 150 true true).chan ∧ ∃ u, exec (.edge 0 150 true true) two = .next u := ⟨by decide, _, rfl⟩

/-- ChannelSeesOnlyItself: two machines that differ in the other channel, in what was delivered, and in their runs. -/
theorem test_witness_ChannelSeesOnlyItself :
    ∃ s' u u' x x', two.params = s'.params ∧ two.channels[0]? = some x ∧ s'.channels[0]? = some x' ∧ x.regs = x'.regs ∧
      x ≠ x' ∧ exec (.edge 0 150 true true) two = .next u ∧ exec (.edge 0 150 true true) s' = .next u' :=
  ⟨⟨twoChannels, [⟨openRegs 3 1 100, [9], []⟩, ⟨openRegs 8 1 7, [], []⟩],
      [⟨0, some 9, some .normal, 0#3, some true, none⟩], [], []⟩,
    _, _, _, _, rfl, rfl, rfl, rfl, by decide, rfl, rfl⟩

theorem test_witness_ChannelsCommute :
    (Instr.edge 0 150 true true).chan ≠ (Instr.openCh 1 0#2).chan ∧
    (∃ u, runOps [.edge 0 150 true true, .openCh 1 0#2] two = .next u) ∧
    (∃ w, runOps [.openCh 1 0#2, .edge 0 150 true true] two = .next w) := ⟨by decide, ⟨_, rfl⟩, ⟨_, rfl⟩⟩

/-- InvalidTimestampIsNotRead, ResetOutIsNotReadWithoutALine. -/
theorem test_witness_UnreadRegisters :
    (trustedRegs 0).tlastValid = false ∧ Params.source.resetLinePresent = false ∧
    ∃ u, exec (.edge 0 3 true true) (m (trustedRegs 0)) = .next u := ⟨rfl, rfl, _, rfl⟩

/-- Eight data bits of 0x05, at both ends of the band in turn. -/
def eightBits : List (Nat × Bool) :=
  [(13, true), (120, false), (13, true), (120, false), (13, false), (120, false), (13, false), (120, false)]

theorem eightBits_inBand : ∀ e ∈ eightBits, InBand Params.source e.1 := by unfold InBand; decide

/-- WellTimedFrameEmitsItsByte: the three ways a start edge is accepted (R120), with gaps at both ends of the band. -/
theorem test_witness_WellTimedFrameEmitsItsByte :
    (trustedRegs 0).armed = true ∧ StartAccepted Params.source (trustedRegs 0) (busTime Params.source 0) ∧
    StartAccepted Params.source (openRegs 0 0 400) (busTime Params.source 521) ∧
    StartAccepted idle100 (openRegs 0 0 400) (busTime idle100 500) ∧
    eightBits.length = Params.source.dataPositions ∧ ∀ e ∈ eightBits, InBand Params.source e.1 := by
  refine ⟨rfl, ?_, ?_, ?_, rfl, eightBits_inBand⟩ <;> unfold StartAccepted <;> decide

/-- FrameLossIsRecoveredFrom: the first gap that is too long, at both ends of the positions. -/
theorem test_witness_FrameLossIsRecoveredFrom :
    Params.source.frameLossEdgeIsStart = true ∧ eightBits.length = Params.source.dataPositions ∧
    (∀ e ∈ eightBits, InBand Params.source e.1) ∧
    ∀ x ∈ [1, 8], (openRegs x 0 100).armed = true ∧ (openRegs x 0 100).position ≠ 0 ∧
      (openRegs x 0 100).tlastValid = true ∧
      Params.source.minInterval ≤ delta Params.source (busTime Params.source 221) 100 ∧
      Params.source.maxInterval < delta Params.source (busTime Params.source 221) 100 :=
  ⟨rfl, rfl, eightBits_inBand, by decide⟩

/-- Reset. EveryOperationAnswersANextState and the power-on statements have no hypotheses, so no witness. -/
theorem test_reset_is_closed : State.reset.channels.map (fun c => (c.regs.phase, c.regs.armed)) = [(.closed, false)] ∧
    State.reset.Unrefused := by decide

end Sys2Proof.Tests
end

section
/-! ## Two runs that differ in one channel's registers

The shape of the claims that a register is not read: an operation is applied to a machine and to the same machine with other
registers in one channel, and the two results differ in that channel's registers at most. -/

namespace Sys2Proof.Machine

/-- The machine with the registers of channel `c`, which is `ch`, replaced. -/
def State.withRegs (s : State) (c : Nat) (ch : Channel) (r : Regs) : State :=
  { s with channels := s.channels.set c { ch with regs := r } }

/-- The two registers show the same level outputs (R30). -/
def SameLevels (p : Params) (a b : Regs) : Prop :=
  a.armed = b.armed ∧ resetLineLevel p a.resetOut = resetLineLevel p b.resetOut

/-- Two answers with the same signals or the same refusal, whose registers are related. -/
inductive Reply.Rel (R : Regs → Regs → Prop) : Reply → Reply → Prop where
  | done {a b : Regs} (h : R a b) (sig : Signals) : Rel R (.done a sig) (.done b sig)
  | refuse (why : RefuseReason) : Rel R (.refuse why) (.refuse why)

theorem Reply.Rel.of_refl {R : Regs → Regs → Prop} (hR : ∀ a, R a a) : ∀ x : Reply, Reply.Rel R x x
  | .done a sig => .done (hR a) sig
  | .refuse why => .refuse why

section WithRegs
variable {p : Params} {R : Regs → Regs → Prop} {s u : State} {c : Nat} {ch : Channel} {r : Regs}

theorem SameLevels.outputsOf_eq {a b : Regs} (h : SameLevels p a b) (c : Nat) (sig : Signals) :
    outputsOf p c (some b) sig = outputsOf p c (some a) sig := by
  obtain ⟨harmed, hline⟩ := h
  simp [outputsOf, harmed, hline]

theorem State.withRegs_self (h : s.channels[c]? = some ch) : s.withRegs c ch ch.regs = s := by
  simp [State.withRegs, set_getElem?_self h]

@[simp] theorem State.withRegs_params : (s.withRegs c ch r).params = s.params := rfl

theorem State.withRegs_getElem?_self (h : s.channels[c]? = some ch) :
    (s.withRegs c ch r).channels[c]? = some { ch with regs := r } := by
  obtain ⟨hc, -⟩ := List.getElem?_eq_some_iff.mp h
  simp [State.withRegs, hc]

theorem State.withRegs_getElem?_ne {j : Nat} (hj : j ≠ c) :
    (s.withRegs c ch r).channels[j]? = s.channels[j]? := by
  simp [State.withRegs, List.getElem?_set_ne (Ne.symm hj)]

/-- A refusal shows the level outputs of its channel and reads nothing else (R240). -/
theorem State.refuse_withRegs (h : s.channels[c]? = some ch) (hl : SameLevels s.params ch.regs r) (j : Nat)
    (why : RefuseReason) : (s.withRegs c ch r).refuse j why = (s.refuse j why).withRegs c ch r := by
  have hout : outputsOf s.params j ((s.withRegs c ch r).regsAt j) {} = outputsOf s.params j (s.regsAt j) {} := by
    by_cases hj : j = c
    · subst hj
      simp [State.regsAt, State.withRegs_getElem?_self h, h, hl.outputsOf_eq]
    · simp [State.regsAt, State.withRegs_getElem?_ne hj]
  simp only [State.refuse, State.withRegs_params, hout]
  rfl

/-- An operation that is carried out on the channel overwrites its registers. -/
theorem State.commit_withRegs_self {a b : Regs} (hl : SameLevels s.params a b) (sig : Signals) :
    (s.withRegs c ch r).commit c { ch with regs := r } b sig =
      (s.commit c ch a sig).withRegs c (ch.record s.trace.length a sig) b := by
  simp [State.commit, State.withRegs, Channel.record, hl.outputsOf_eq]

/-- An operation that is carried out on another channel does not see the change. -/
theorem State.commit_withRegs_ne {j : Nat} (hj : j ≠ c) (x : Channel) (a : Regs) (sig : Signals) :
    (s.withRegs c ch r).commit j x a sig = (s.commit j x a sig).withRegs c ch r := by
  simp [State.commit, State.withRegs, List.set_comm _ _ hj.symm]

/-- A transaction on two machines that differ in related registers of one channel leaves them so, if it answers related
registers with related ones. -/
theorem State.transact_withRegs {f : Regs → Reply} (hlev : ∀ a b, R a b → SameLevels s.params a b)
    (h : s.channels[c]? = some ch) (hr : R ch.regs r) (hf : Reply.Rel R (f ch.regs) (f r)) (j : Nat) :
    ∃ v b, (s.transact j f).channels[c]? = some v ∧ R v.regs b ∧
      (s.withRegs c ch r).transact j f = (s.transact j f).withRegs c v b := by
  have hsame := hlev _ _ hr
  by_cases hj : j = c
  · subst hj
    have h' := State.withRegs_getElem?_self (r := r) h
    generalize hfa : f ch.regs = x, hfb : f r = y at hf
    cases hf with
    | @done a b hab sig =>
      refine ⟨ch.record s.trace.length a sig, b, ?_, hab, ?_⟩
      · rw [State.transact_done h hfa, State.commit_getElem?_self _ _ _ _ _ h]
      · rw [State.transact_done h hfa, State.transact_done h' hfb, State.commit_withRegs_self (hlev _ _ hab)]
    | refuse why =>
      refine ⟨ch, r, by simpa [State.transact_refuse h hfa] using h, hr, ?_⟩
      rw [State.transact_refuse h hfa, State.transact_refuse h' hfb, State.refuse_withRegs h hsame]
  · rcases State.transact_cases j f s with ⟨hx, ht⟩ | ⟨x, why, hx, hfx, ht⟩ | ⟨x, a, sig, hx, hfx, ht⟩
    · refine ⟨ch, r, by simpa [ht] using h, hr, ?_⟩
      rw [ht, State.transact_none ((State.withRegs_getElem?_ne hj).trans hx), State.refuse_withRegs h hsame]
    · refine ⟨ch, r, by simpa [ht] using h, hr, ?_⟩
      rw [ht, State.transact_refuse ((State.withRegs_getElem?_ne hj).trans hx) hfx, State.refuse_withRegs h hsame]
    · refine ⟨ch, r, by rw [ht, State.commit_getElem?_ne _ _ _ _ _ (Ne.symm hj), h], hr, ?_⟩
      rw [ht, State.transact_done ((State.withRegs_getElem?_ne hj).trans hx) hfx, State.commit_withRegs_ne hj]

/-- The same of every operation: a register that the answers do not read makes no difference but in itself. -/
theorem exec_withRegs {i : Instr} (hlev : ∀ a b, R a b → SameLevels s.params a b) (h : s.channels[c]? = some ch)
    (hr : R ch.regs r) (hf : Reply.Rel R (replyOf s.params i ch.regs) (replyOf s.params i r)) (hu : exec i s = .next u) :
    ∃ v b, u.channels[c]? = some v ∧ R v.regs b ∧ exec i (s.withRegs c ch r) = .next (u.withRegs c v b) := by
  by_cases hi : ∃ c' ctl, i = .reserved c' ctl
  · obtain ⟨j, ctl, rfl⟩ := hi
    cases hu
    refine ⟨ch, r, h, hr, ?_⟩
    rw [← State.refuse_withRegs h (hlev _ _ hr)]
    rfl
  · have hexec : ∀ s, exec i s = .next (s.transact i.chan (replyOf s.params i)) :=
      fun s => (exec_eq i s).resolve_left hi
    rw [hexec s] at hu
    cases hu
    obtain ⟨v, b, hv, hb, ht⟩ := State.transact_withRegs hlev h hr hf i.chan
    exact ⟨v, b, hv, hb, by rw [hexec, State.withRegs_params, ht]⟩

end WithRegs

/-! ## `tlast` while `tlast_valid` is 0 (spec/00_scope.md R14) -/

section UnreadTimestamp
variable {p : Params} {x : Nat}

/-- The registers `b` are `a`, or `a` with the value `x` in a `tlast` that is invalid. -/
def UnreadTlast (x : Nat) (a b : Regs) : Prop :=
  b = a ∨ (a.tlastValid = false ∧ b = { a with tlast := x })

theorem UnreadTlast.of_invalid {a : Regs} (h : a.tlastValid = false) : UnreadTlast x a { a with tlast := x } :=
  .inr ⟨h, rfl⟩

theorem UnreadTlast.sameLevels {a b : Regs} (h : UnreadTlast x a b) : SameLevels p a b := by
  rcases h with rfl | ⟨-, rfl⟩ <;> exact ⟨rfl, rfl⟩

/-- A disarmed EDGE leaves `tlast` alone; an armed one trusts the edge and overwrites `tlast` (R101, R102, R112). -/
theorem edgeReply_unreadTlast {r : Regs} (t : Nat) (bit ok : Bool) (h : r.tlastValid = false) :
    Reply.Rel (UnreadTlast x) (edgeReply p t bit ok r) (edgeReply p t bit ok { r with tlast := x }) := by
  rcases Bool.eq_false_or_eq_true r.armed with ha | ha
  · rw [edgeReply_of_normal ha (classify_of_absent h),
      edgeReply_of_normal (r := { r with tlast := x }) ha (classify_of_absent h)]
    exact .of_refl (fun _ => .inl rfl) _
  · rw [edgeReply_of_disarmed ha, edgeReply_of_disarmed (r := { r with tlast := x }) ha]
    exact .done (.of_invalid h) _

theorem openReply_unreadTlast (r : Regs) :
    Reply.Rel (UnreadTlast x) (openReply p r) (openReply p { r with tlast := x }) := by
  unfold openReply
  split_ifs
  · exact .refuse _
  · exact .done (.of_invalid rfl) _
  · exact .done (.of_invalid rfl) _

theorem closeReply_unreadTlast (r : Regs) :
    Reply.Rel (UnreadTlast x) (closeReply r) (closeReply { r with tlast := x }) := by
  unfold closeReply
  split_ifs
  · exact .refuse _
  · exact .done (.of_invalid rfl) _

theorem holdDoneReply_unreadTlast {r : Regs} (h : r.tlastValid = false) :
    Reply.Rel (UnreadTlast x) (holdDoneReply r) (holdDoneReply { r with tlast := x }) := by
  unfold holdDoneReply
  cases r.phase with
  | rstIdle => exact .done (.of_invalid h) _
  | rstActive => exact .done (.of_invalid h) _
  | closed => exact .refuse _
  | opened => exact .refuse _

/-- R14: no operation reads an invalid `tlast`. -/
theorem replyOf_unreadTlast (i : Instr) {r : Regs} (h : r.tlastValid = false) :
    Reply.Rel (UnreadTlast x) (replyOf p i r) (replyOf p i { r with tlast := x }) := by
  cases i with
  | nop c ign => exact .done (.of_invalid h) _
  | edge c t d dOk => exact edgeReply_unreadTlast t d dOk h
  | openCh c ign => exact openReply_unreadTlast r
  | closeCh c ign => exact closeReply_unreadTlast r
  | holdDone c ign => exact holdDoneReply_unreadTlast h
  | reserved c ctl => exact .refuse _

end UnreadTimestamp

/-- Settles O55: the answers of an operation agree up to the unread value, and a step carries that to the whole machine. -/
theorem invalidTimestampIsNotRead : Obligations.InvalidTimestampIsNotRead := by
  unfold Obligations.InvalidTimestampIsNotRead
  intro i s u c x ch h hinvalid hu
  obtain ⟨v, b, hv, hb, hexec⟩ := exec_withRegs (R := UnreadTlast x) (fun _ _ => UnreadTlast.sameLevels) h
    (.of_invalid hinvalid) (replyOf_unreadTlast i hinvalid) hu
  refine ⟨u.withRegs c v b, hexec, ?_⟩
  rcases hb with rfl | ⟨hv0, rfl⟩
  · exact .inl (State.withRegs_self hv)
  · exact .inr ⟨v, hv, hv0, rfl⟩

end Sys2Proof.Machine
end

section
/-! ## What an operation does to a channel, and what a step keeps

The two shapes the claims about the whole machine need: a transaction acts on its own channel through that channel's registers
alone, and a predicate is kept by a step when it is kept by a refusal and by a transaction that is carried out. -/

namespace Sys2Proof.Machine

variable {i : Instr} {s u : State} {c : Nat}

/-- The states an operation can lead to: a refusal or a transaction carried out. -/
theorem exec_next_cases (hu : exec i s = .next u) :
    (∃ why, u = s.refuse i.chan why) ∨
    (∃ ch r sig, s.channels[i.chan]? = some ch ∧ replyOf s.params i ch.regs = .done r sig ∧
      u = s.commit i.chan ch r sig) := by
  rcases exec_cases i s with ⟨why, he, -⟩ | ⟨ch, r, sig, h, hr, he⟩
  · cases he.symm.trans hu
    exact .inl ⟨why, rfl⟩
  · cases he.symm.trans hu
    exact .inr ⟨ch, r, sig, h, hr, rfl⟩

/-- A predicate that is kept by taking an operation from the queue, by every refusal and by every transaction of a well-formed
operation is kept by every step. -/
theorem step_keeps {P : State → Prop} (hqueue : ∀ s rest, P s → P { s with inputs := rest })
    (hrefuse : ∀ s c why, P s → P (s.refuse c why))
    (hcommit : ∀ s i ch r sig, i.wellFormed s.params = true → s.channels[i.chan]? = some ch →
      replyOf s.params i ch.regs = .done r sig → P s → P (s.commit i.chan ch r sig))
    {s t : State} (hs : P s) (ht : step s = .next t) : P t := by
  cases hin : s.inputs with
  | nil =>
    have hstay : step s = .next s := by simp [step, State.fetch, hin]
    cases hstay.symm.trans ht
    exact hs
  | cons o rest =>
    have hexec : step s = exec (decode s.params o) { s with inputs := rest } := by simp [step, State.fetch, hin]
    rcases exec_next_cases (hexec.symm.trans ht) with ⟨why, rfl⟩ | ⟨ch, r, sig, hch, hr, rfl⟩
    · exact hrefuse _ _ _ (hqueue s rest hs)
    · exact hcommit _ _ ch r sig (decode_wellFormed s.params o) hch hr (hqueue s rest hs)

theorem exec_params (hu : exec i s = .next u) : u.params = s.params := by
  rcases exec_next_cases hu with ⟨why, rfl⟩ | ⟨ch, r, sig, -, -, rfl⟩ <;> rfl

/-- An operation leaves every other channel as it was (R41). -/
theorem exec_getElem?_ne (hu : exec i s = .next u) (hc : c ≠ i.chan) : u.channels[c]? = s.channels[c]? := by
  rcases exec_next_cases hu with ⟨why, rfl⟩ | ⟨ch, r, sig, -, -, rfl⟩
  · rfl
  · exact State.commit_getElem?_ne _ _ _ _ _ hc

/-! ### The effect on registers and `OUT` -/

/-- The registers that stand after a reply to the registers `r`. -/
def Reply.regs (r : Regs) : Reply → Regs
  | .done r' _ => r'
  | .refuse _ => r

/-- The byte that a reply delivers. -/
def Reply.byte : Reply → Option Nat
  | .done _ sig => sig.byte
  | .refuse _ => none

/-- The registers and `OUT` of a channel: what of it depends on no operation index. -/
def Channel.seen (ch : Channel) : Regs × List Nat := (ch.regs, ch.out)

/-- What an operation makes of the registers and `OUT` of channel `c`. -/
def effectOn (p : Params) (c : Nat) (i : Instr) (x : Regs × List Nat) : Regs × List Nat :=
  if c = i.chan then ((replyOf p i x.1).regs x.1, x.2 ++ (replyOf p i x.1).byte.toList) else x

theorem effectOn_ne (p : Params) (h : c ≠ i.chan) (x : Regs × List Nat) : effectOn p c i x = x := if_neg h

/-- R41: an operation acts on the registers and `OUT` of a channel through that channel alone. -/
theorem exec_seen (hu : exec i s = .next u) (c : Nat) :
    u.channels[c]?.map Channel.seen = (s.channels[c]?.map Channel.seen).map (effectOn s.params c i) := by
  by_cases hc : c = i.chan
  · subst hc
    cases h : s.channels[i.chan]? with
    | none =>
      rcases exec_next_cases hu with ⟨why, rfl⟩ | ⟨ch, r, sig, hch, -, -⟩
      · simp [h]
      · cases h.symm.trans hch
    | some ch =>
      cases hr : replyOf s.params i ch.regs with
      | done r sig =>
        cases (exec_done h hr).symm.trans hu
        rw [State.commit_getElem?_self _ _ _ _ _ h]
        simp [Channel.seen, effectOn, hr, Reply.regs, Reply.byte]
      | refuse why =>
        cases (exec_refuse h hr).symm.trans hu
        simp [h, Channel.seen, effectOn, hr, Reply.regs, Reply.byte]
  · rw [exec_getElem?_ne hu hc, funext (effectOn_ne s.params hc), Option.map_id']

/-- The same of a channel that is at hand. -/
theorem seen_of_exec {ch v : Channel} (hu : exec i s = .next u) (h : s.channels[c]? = some ch)
    (hv : u.channels[c]? = some v) : v.seen = effectOn s.params c i ch.seen := by
  simpa [h, hv] using exec_seen hu c

/-- Two operations in a row: the second acts on the state the first leads to. -/
theorem runOps_pair {j : Instr} (h : runOps [i, j] s = .next u) : ∃ m, exec i s = .next m ∧ exec j m = .next u := by
  cases hi : exec i s with
  | next m =>
    refine ⟨m, rfl, ?_⟩
    cases hj : exec j m with
    | next v => simpa [runOps, hi, hj] using h
    | fault f => cases f
    | refused r => simp [runOps, hi, hj] at h
  | fault f => cases f
  | refused r => simp [runOps, hi] at h

/-- The effect of two operations in a row. -/
theorem runOps_pair_seen {j : Instr} (h : runOps [i, j] s = .next u) (c : Nat) :
    u.channels[c]?.map Channel.seen =
      (s.channels[c]?.map Channel.seen).map fun x => effectOn s.params c j (effectOn s.params c i x) := by
  obtain ⟨m, hm, hu⟩ := runOps_pair h
  rw [exec_seen hu, exec_seen hm, exec_params hm, Option.map_map, Function.comp_def]

/-- Effects of operations on different channels commute: on each channel one of the two does nothing. -/
theorem effectOn_comm {j : Instr} (p : Params) (hij : i.chan ≠ j.chan) (c : Nat) (x : Regs × List Nat) :
    effectOn p c j (effectOn p c i x) = effectOn p c i (effectOn p c j x) := by
  by_cases hc : c = i.chan
  · have hj : c ≠ j.chan := hc ▸ hij
    rw [effectOn_ne p hj, effectOn_ne p hj]
  · rw [effectOn_ne p hc, effectOn_ne p hc]

/-- Settles O52: a refusal writes no channel, and a transaction that is carried out writes its own. -/
theorem otherChannelsAreUntouched : Obligations.OtherChannelsAreUntouched :=
  fun _ _ _ _ hu hc => exec_getElem?_ne hu hc

/-- Settles O53: both machines get the same reply, and carry it out or refuse it alike. -/
theorem channelSeesOnlyItself : Obligations.ChannelSeesOnlyItself := by
  unfold Obligations.ChannelSeesOnlyItself
  intro i s s' u u' ch ch' hp h h' hregs hu hu'
  cases hr : replyOf s.params i ch.regs with
  | done r sig =>
    have hr' : replyOf s'.params i ch'.regs = .done r sig := by rw [← hp, ← hregs, hr]
    cases (exec_done h hr).symm.trans hu
    cases (exec_done h' hr').symm.trans hu'
    exact ⟨outputsOf s.params i.chan (some r) sig, _, _, sig.byte.toList, [], rfl, by rw [hp]; rfl,
      State.commit_getElem?_self _ _ _ _ _ h, State.commit_getElem?_self _ _ _ _ _ h', rfl, rfl, rfl, by simp, by simp⟩
  | refuse why =>
    have hr' : replyOf s'.params i ch'.regs = .refuse why := by rw [← hp, ← hregs, hr]
    cases (exec_refuse h hr).symm.trans hu
    cases (exec_refuse h' hr').symm.trans hu'
    refine ⟨outputsOf s.params i.chan (some ch.regs) {}, ch, ch', [], [why], ?_, ?_, h, h', hregs, by simp, by simp, rfl, rfl⟩
    · simp [State.regsAt, h]
    · simp [State.regsAt, h', hp, hregs]

/-- Settles O54: each order has the effects of both operations on each channel, and these commute. -/
theorem channelsCommute : Obligations.ChannelsCommute := by
  unfold Obligations.ChannelsCommute
  intro i j s u w c hij hu hw
  calc u.channels[c]?.map Channel.seen
    _ = (s.channels[c]?.map Channel.seen).map fun x => effectOn s.params c j (effectOn s.params c i x) :=
      runOps_pair_seen hu c
    _ = (s.channels[c]?.map Channel.seen).map fun x => effectOn s.params c i (effectOn s.params c j x) := by
      rw [funext (effectOn_comm s.params hij c)]
    _ = w.channels[c]?.map Channel.seen := (runOps_pair_seen hw c).symm

end Sys2Proof.Machine
end

section
/-! ## The invariants of the registers (spec/10_state.md R35-R39) -/

namespace Sys2Proof.Machine

variable {p : Params} {r : Regs}

/-- At `Start` with no reference time, the invariants are those of the lifecycle. -/
theorem Regs.Inv.of_start (hpos : r.position = 0) (hacc : r.acc = 0) (hvalid : r.tlastValid = false)
    (htl : r.tlast < 2 ^ p.tsWidth) (harmed : r.armed = true ↔ r.phase = .opened)
    (hline : r.phase = .rstIdle ∨ r.phase = .rstActive → p.resetLinePresent = true)
    (hlevel : p.resetLinePresent = true →
      (r.phase = .rstIdle → r.resetOut = .idle) ∧ (r.phase = .rstActive → r.resetOut = .active) ∧
        (r.phase = .opened → r.resetOut = .idle)) : r.Inv p where
  position_le := by omega
  acc_at_start _ := hacc
  acc_lt h := by omega
  absent _ := ⟨hpos, hacc⟩
  armed_iff := harmed
  not_open _ := ⟨hpos, hacc, hvalid⟩
  pulse_has_line := hline
  reset_level := hlevel
  tlast_lt := htl

/-- In an open channel with a reference time, `position` and `acc` may be any that keep R35 to R37. -/
theorem Regs.Inv.of_accepted (h : r.Inv p) (ho : r.phase = .opened) (hv : r.tlastValid = true) {x a : Nat}
    (hx : x ≤ p.dataPositions) (h0 : x = 0 → a = 0) (ha : 1 ≤ x → a < 2 ^ (x - 1)) :
    Regs.Inv p { r with position := x, acc := a } :=
  { h with
    position_le := hx
    acc_at_start := h0
    acc_lt := ha
    absent := fun hn => by simp [hv] at hn
    not_open := fun hn => absurd ho hn }

theorem Regs.Inv.resync (h : r.Inv p) : r.resync.Inv p :=
  .of_start rfl rfl rfl h.tlast_lt h.armed_iff h.pulse_has_line h.reset_level

theorem Regs.Inv.acceptAt (h : r.Inv p) (ho : r.phase = .opened) {t : Nat} (ht : t < 2 ^ p.tsWidth) :
    (r.acceptAt t).Inv p :=
  { h with
    absent := fun hn => by simp at hn
    not_open := fun hn => absurd ho hn
    tlast_lt := ht }

/-- `position` goes up by one below `DATA_POSITIONS`, whatever is written to `acc` beside it (R133). -/
theorem Regs.advance_withAcc (hl : p.legal = true) (h : r.position < p.dataPositions) (a : Nat) :
    Regs.advance p { r with acc := a } = { r with position := r.position + 1, acc := a } := by
  have hpos := Regs.advance_position (r := { r with acc := a }) hl h
  simpa [Regs.advance] using hpos

/-- R35 to R37 are kept by every stage of ACCUMULATE (R131-R137). -/
theorem Regs.Inv.accumulate (hl : p.legal = true) (h : r.Inv p) (ho : r.phase = .opened) (hv : r.tlastValid = true)
    (bit ok : Bool) : (accumulate p bit ok r).1.Inv p := by
  have hdata := (legal_bounds hl).1
  rcases accumulate_cases p bit ok r with
    ⟨-, he⟩ | ⟨-, h0, he⟩ | ⟨-, h1, hlt, he⟩ | ⟨-, -, -, he⟩ | ⟨-, -, -, he⟩
  · rw [he]; exact h.resync
  · rw [he, Regs.advance_withAcc hl (by omega)]
    exact h.of_accepted ho hv (by omega) (fun _ => rfl) (fun _ => Nat.two_pow_pos _)
  · have hacc := setDataBit_lt bit hl h1 hlt.le (h.acc_lt h1)
    rw [he, Regs.advance_withAcc hl hlt]
    exact h.of_accepted ho hv hlt (by omega) (fun _ => hacc)
  · rw [he]; exact h.of_accepted ho hv (Nat.zero_le _) (fun _ => rfl) (by omega)
  · rw [he]; exact h.resync

/-- R54: a delivered byte has `BYTE_WIDTH` bits. -/
theorem accumulate_byte_lt (hl : p.legal = true) (h : r.Inv p) (bit ok : Bool) :
    ∀ b ∈ (accumulate p bit ok r).2.byte, b < 2 ^ p.byteWidth := by
  rcases accumulate_cases p bit ok r with
    ⟨-, he⟩ | ⟨-, -, he⟩ | ⟨-, -, -, he⟩ | ⟨-, h1, hx, he⟩ | ⟨-, -, -, he⟩
  · simp [he]
  · simp [he]
  · simp [he]
  · have hbyte := setDataBit_lt bit hl h1 hx.le (h.acc_lt h1)
    have hwidth : r.position ≤ p.byteWidth := hx ▸ (legal_bounds hl).2.2
    simpa [he] using hbyte.trans_le (Nat.pow_le_pow_right (by omega) hwidth)
  · simp [he]

/-- A reply whose registers have the invariants and whose byte, if there is one, fits its width; every refusal is one. -/
def Reply.Keeps (p : Params) : Reply → Prop
  | .done r sig => r.Inv p ∧ ∀ b ∈ sig.byte, b < 2 ^ p.byteWidth
  | .refuse _ => True

/-- A reply that delivers no byte. -/
theorem Reply.Keeps.of_no_byte {sig : Signals} (h : r.Inv p) (hb : sig.byte = none) : Reply.Keeps p (.done r sig) :=
  ⟨h, by simp [hb]⟩

theorem accumulateEdge_keeps (hl : p.legal = true) (h : r.Inv p) (ho : r.phase = .opened) (hv : r.tlastValid = true)
    (v : Verdict) (diag : DiagBits) (bit ok : Bool) : (accumulateEdge p v diag bit ok r).Keeps p :=
  ⟨h.accumulate hl ho hv bit ok, accumulate_byte_lt hl h bit ok⟩

theorem edgeReply_keeps (hl : p.legal = true) (h : r.Inv p) {t : Nat} (ht : t < 2 ^ p.tsWidth) (bit ok : Bool) :
    (edgeReply p t bit ok r).Keeps p := by
  rcases edgeReply_cases p t bit ok r with ⟨-, he⟩ | ⟨harmed, hcases⟩
  · rw [he]; exact .of_no_byte h rfl
  · have ho : r.phase = .opened := h.armed_iff.mp harmed
    rcases hcases with ⟨-, he⟩ | ⟨-, he⟩ | ⟨-, he⟩ | ⟨-, -, he⟩ | ⟨-, -, he⟩
    · rw [he]; exact .of_no_byte h rfl
    · rw [he]; exact .of_no_byte h rfl
    · rw [he]; exact accumulateEdge_keeps hl (h.acceptAt ho ht) ho rfl _ _ bit ok
    · rw [he]; exact accumulateEdge_keeps hl (h.resync.acceptAt ho ht) ho rfl _ _ bit ok
    · rw [he]; exact .of_no_byte (h.resync.acceptAt ho ht) rfl

theorem openReply_keeps (h : r.Inv p) : (openReply p r).Keeps p := by
  rcases openReply_cases p r with ⟨-, he⟩ | ⟨hclosed, hline, he⟩ | ⟨-, hline, he⟩
  · rw [he]; trivial
  · have harmed : r.armed ≠ true := fun ha => by simp [h.armed_iff.mp ha] at hclosed
    rw [he]
    exact .of_no_byte (.of_start rfl rfl rfl h.tlast_lt (by simp [harmed]) (fun _ => hline) (by simp)) rfl
  · rw [he]
    exact .of_no_byte (.of_start rfl rfl rfl h.tlast_lt (by simp) (by simp) (by simp [hline])) rfl

theorem closeReply_keeps (h : r.Inv p) : (closeReply r).Keeps p := by
  rcases closeReply_cases r with ⟨-, he⟩ | ⟨-, he⟩
  · rw [he]; trivial
  · rw [he]
    exact .of_no_byte (.of_start rfl rfl rfl h.tlast_lt (by simp) (by simp) (by simp)) rfl

theorem holdDoneReply_keeps (h : r.Inv p) : (holdDoneReply r).Keeps p := by
  rcases holdDoneReply_cases r with ⟨-, he⟩ | ⟨hphase, he⟩ | ⟨hphase, he⟩
  · rw [he]; trivial
  · obtain ⟨hpos, hacc, hvalid⟩ := h.not_open (by simp [hphase])
    have harmed : r.armed ≠ true := fun ha => by simp [h.armed_iff.mp ha] at hphase
    rw [he]
    exact .of_no_byte (.of_start hpos hacc hvalid h.tlast_lt (by simp [harmed])
      (fun _ => h.pulse_has_line (.inl hphase)) (by simp)) rfl
  · obtain ⟨hpos, hacc, hvalid⟩ := h.not_open (by simp [hphase])
    rw [he]
    exact .of_no_byte (.of_start hpos hacc hvalid h.tlast_lt (by simp) (by simp) (by simp)) rfl

/-- Every reply to registers with the invariants keeps them, if the operands fit their buses. -/
theorem replyOf_keeps (hl : p.legal = true) (h : r.Inv p) {i : Instr} (hi : i.wellFormed p = true) :
    (replyOf p i r).Keeps p := by
  cases i with
  | nop c ign => exact .of_no_byte h rfl
  | edge c t d dOk => exact edgeReply_keeps hl h (by simpa using (Bool.and_eq_true_iff.mp hi).2) d dOk
  | openCh c ign => exact openReply_keeps h
  | closeCh c ign => exact closeReply_keeps h
  | holdDone c ign => exact holdDoneReply_keeps h
  | reserved c ctl => trivial

/-! ### The machine -/

section Machine
variable {s : State}

theorem State.Inv.withInputs (h : s.Inv) (rest : List Presented) : State.Inv { s with inputs := rest } :=
  ⟨h.legal, h.channel_count, h.regs, h.out_lt⟩

theorem State.Inv.refuse (h : s.Inv) (c : Nat) (why : RefuseReason) : (s.refuse c why).Inv :=
  ⟨h.legal, h.channel_count, h.regs, h.out_lt⟩

/-- A transaction keeps the invariants of the machine if its reply keeps those of its channel. -/
theorem State.Inv.commit (h : s.Inv) {c : Nat} {ch : Channel} {r : Regs} {sig : Signals} (hch : s.channels[c]? = some ch)
    (hr : Reply.Keeps s.params (.done r sig)) : (s.commit c ch r sig).Inv := by
  obtain ⟨hregs, hbyte⟩ := hr
  refine ⟨h.legal, by simpa using h.channel_count, fun x hx => ?_, fun x hx b hb => ?_⟩
  · rcases List.mem_or_eq_of_mem_set hx with hx | rfl
    · exact h.regs x hx
    · exact hregs
  · rcases List.mem_or_eq_of_mem_set hx with hx | rfl
    · exact h.out_lt x hx b hb
    · rcases List.mem_append.mp hb with hb | hb
      · exact h.out_lt ch (List.mem_of_getElem? hch) b hb
      · exact hbyte b (Option.mem_toList.mp hb)

end Machine

/-- Settles O45: the invariants are kept by every reply (`replyOf_keeps`), and with them by every transaction. -/
theorem stepKeepsTheInvariants : Obligations.StepKeepsTheInvariants := fun _ _ =>
  step_keeps (fun _ rest h => h.withInputs rest) (fun _ c why h => h.refuse c why)
    fun _ _ _ _ _ hi hch hr h =>
      h.commit hch (hr ▸ replyOf_keeps h.legal (h.regs _ (List.mem_of_getElem? hch)) hi)

/-- A channel of the machine at power-on (R230). -/
theorem mem_powerOn {tl : Nat → Nat} {ro : Nat → Level} {ch : Channel} (h : ch ∈ (State.powerOn p tl ro).channels) :
    ∃ c, ch = ⟨Regs.powerOn (busTime p (tl c)) (ro c), [], []⟩ := by
  obtain ⟨c, -, rfl⟩ := List.mem_map.mp h
  exact ⟨c, rfl⟩

theorem Regs.powerOn_inv {t : Nat} (ht : t < 2 ^ p.tsWidth) (l : Level) : (Regs.powerOn t l).Inv p :=
  .of_start rfl rfl rfl ht (by simp [Regs.powerOn]) (by simp [Regs.powerOn]) (by simp [Regs.powerOn])

theorem State.powerOn_inv (hl : p.legal = true) (tl : Nat → Nat) (ro : Nat → Level) : (State.powerOn p tl ro).Inv where
  legal := hl
  channel_count := by simp [State.powerOn]
  regs ch h := by
    obtain ⟨c, rfl⟩ := mem_powerOn h
    exact Regs.powerOn_inv (busTime_lt p _) _
  out_lt ch h b hb := by
    obtain ⟨c, rfl⟩ := mem_powerOn h
    cases hb

/-- Settles O46: at power-on every channel is closed, at `Start` and without a reference time. -/
theorem invariantsHoldAtPowerOn : Obligations.InvariantsHoldAtPowerOn :=
  ⟨fun _ tl ro hl => State.powerOn_inv hl tl ro, State.powerOn_inv (by decide) _ _⟩

end Sys2Proof.Machine
end

section
/-! ## When a byte is delivered (spec/10_state.md R40) -/

namespace Sys2Proof.Machine

variable {p : Params} {r : Regs}

/-- R134, R135: ACCUMULATE emits exactly for a valid sample at the last data position. -/
theorem accumulate_byte_isSome_iff (hl : p.legal = true) (bit ok : Bool) :
    (accumulate p bit ok r).2.byte.isSome = true ↔ ok = true ∧ r.position = p.dataPositions := by
  have hdata := (legal_bounds hl).1
  rcases accumulate_cases p bit ok r with
    ⟨hok, he⟩ | ⟨hok, h0, he⟩ | ⟨hok, h1, hlt, he⟩ | ⟨hok, -, hx, he⟩ | ⟨hok, -, hlt, he⟩
  · rw [he]; simp [hok]
  · have hne : r.position ≠ p.dataPositions := by omega
    simp [he, hne]
  · simp [he, hlt.ne]
  · rw [he]; simp [hok, hx]
  · simp [he, hlt.ne']

@[simp] theorem accumulateEdge_byte (v : Verdict) (diag : DiagBits) (bit ok : Bool) :
    (accumulateEdge p v diag bit ok r).byte = (accumulate p bit ok r).2.byte := rfl

/-- R40 of an EDGE: an edge after a frame loss is at position 0, so it emits nothing. -/
theorem edgeReply_byte_isSome_iff (hl : p.legal = true) (t : Nat) (bit ok : Bool) :
    (edgeReply p t bit ok r).byte.isSome = true ↔
      ok = true ∧ r.armed = true ∧ r.position = p.dataPositions ∧ classify p t r = .normal := by
  have hdata := (legal_bounds hl).1
  rcases edgeReply_cases p t bit ok r with ⟨ha, he⟩ | ⟨ha, hcases⟩
  · simp [he, ha, Reply.byte]
  · rcases hcases with ⟨hc, he⟩ | ⟨hc, he⟩ | ⟨hc, he⟩ | ⟨hc, -, he⟩ | ⟨hc, -, he⟩
    · simp [he, hc, Reply.byte]
    · simp [he, hc, Reply.byte]
    · rw [he, accumulateEdge_byte, accumulate_byte_isSome_iff hl]
      simp [ha, hc]
    · rw [he, accumulateEdge_byte, accumulate_byte_isSome_iff hl]
      have hstart : 0 ≠ p.dataPositions := by omega
      simp [hc, hstart]
    · simp [he, hc, Reply.byte]

/-- The lifecycle operations deliver nothing (R160-R172). -/
theorem openReply_byte : (openReply p r).byte = none := by
  rcases openReply_cases p r with ⟨-, he⟩ | ⟨-, -, he⟩ | ⟨-, -, he⟩ <;> rw [he] <;> rfl

theorem closeReply_byte : (closeReply r).byte = none := by
  rcases closeReply_cases r with ⟨-, he⟩ | ⟨-, he⟩ <;> rw [he] <;> rfl

theorem holdDoneReply_byte : (holdDoneReply r).byte = none := by
  rcases holdDoneReply_cases r with ⟨-, he⟩ | ⟨-, he⟩ | ⟨-, he⟩ <;> rw [he] <;> rfl

/-- R40 of every operation. -/
theorem replyOf_byte_isSome_iff (hl : p.legal = true) (i : Instr) :
    (replyOf p i r).byte.isSome = true ↔
      ∃ t d, i = .edge i.chan t d true ∧ r.armed = true ∧ r.position = p.dataPositions ∧ classify p t r = .normal := by
  cases i with
  | nop c ign => simp [replyOf, nopReply, Reply.byte]
  | edge c t d dOk =>
    rw [replyOf, edgeReply_byte_isSome_iff hl]
    simp [Instr.chan]
  | openCh c ign => simp [replyOf, openReply_byte]
  | closeCh c ign => simp [replyOf, closeReply_byte]
  | holdDone c ign => simp [replyOf, holdDoneReply_byte]
  | reserved c ctl => simp [replyOf, Reply.byte]

/-- A list grows by one element exactly when an optional element appended to it is there. -/
theorem append_toList_eq_concat_iff {α : Type} (l : List α) (o : Option α) :
    (∃ b, l ++ o.toList = l ++ [b]) ↔ o.isSome = true := by
  cases o <;> simp

/-- Settles O28: what is appended to `OUT` is the byte of the reply, and only a valid NORMAL edge at the last data position
has one. -/
theorem outGrowsExactlyAtTheLastDataBit : Obligations.OutGrowsExactlyAtTheLastDataBit := by
  unfold Obligations.OutGrowsExactlyAtTheLastDataBit
  intro i s u c ch v hl hu h hv
  have hseen := seen_of_exec hu h hv
  by_cases hc : c = i.chan
  · subst hc
    have hout : v.out = ch.out ++ (replyOf s.params i ch.regs).byte.toList := by
      simpa [effectOn, Channel.seen] using congrArg Prod.snd hseen
    rw [hout, append_toList_eq_concat_iff]
    refine ⟨replyOf_byte_isSome_iff hl i, ?_⟩
    cases (replyOf s.params i ch.regs).byte <;> simp
  · have hout : v.out = ch.out := congrArg Prod.snd (hseen.trans (effectOn_ne _ hc _))
    have hi : ∀ t d, i ≠ .edge c t d true := fun t d he => hc (by rw [he]; rfl)
    simp [hout, hi]

end Sys2Proof.Machine
end

section
/-! ## The record of a run (spec/10_state.md R31, R32, R34) -/

namespace Sys2Proof.Machine

/-- The operation after a run adds its byte on its own channel. -/
theorem bytesOf_concat (c : Nat) (tr : List OpOutputs) (e : OpOutputs) :
    bytesOf c (tr ++ [e]) = bytesOf c tr ++ if e.chan = c then e.byte.toList else [] := by
  by_cases hc : e.chan = c
  · cases hb : e.byte <;> simp [bytesOf, hc, hb]
  · simp [bytesOf, hc]

/-- The operation after a run adds its report, with the number of operations before it. -/
theorem diagsOf_concat (c : Nat) (tr : List OpOutputs) (e : OpOutputs) :
    diagsOf c (tr ++ [e]) =
      diagsOf c tr ++ if e.chan = c ∧ e.diagBits ≠ 0#3 then [(tr.length, e.diagBits)] else [] := by
  by_cases he : e.chan = c ∧ e.diagBits ≠ 0#3
  · simp [diagsOf, List.zipIdx_append, he]
  · simp [diagsOf, List.zipIdx_append, he]

section Machine
variable {s : State}

theorem State.RecordsRun.withInputs (h : s.RecordsRun) (rest : List Presented) :
    State.RecordsRun { s with inputs := rest } :=
  ⟨h.out_eq, h.diag_eq⟩

/-- A refusal delivers and reports nothing (R240). -/
theorem State.RecordsRun.refuse (h : s.RecordsRun) (j : Nat) (why : RefuseReason) : (s.refuse j why).RecordsRun where
  out_eq c ch hch := by simpa [bytesOf_concat, -outputsOf_chan] using h.out_eq c ch hch
  diag_eq c ch hch := by simpa [diagsOf_concat] using h.diag_eq c ch hch

/-- A transaction appends to `OUT` and `DIAG` of its channel what it adds to the record, and to no other. -/
theorem State.RecordsRun.commit (h : s.RecordsRun) {j : Nat} {x : Channel} (hx : s.channels[j]? = some x) (r : Regs)
    (sig : Signals) : (s.commit j x r sig).RecordsRun := by
  have hself := State.commit_getElem?_self j r sig x s hx
  have hother {c : Nat} (hc : c ≠ j) := State.commit_getElem?_ne j r sig x s hc
  refine ⟨fun c ch hch => ?_, fun c ch hch => ?_⟩ <;> by_cases hc : c = j
  · subst hc
    cases hself.symm.trans hch
    simp [bytesOf_concat, h.out_eq c x hx]
  · simpa [bytesOf_concat, Ne.symm hc] using h.out_eq c ch ((hother hc).symm.trans hch)
  · subst hc
    cases hself.symm.trans hch
    by_cases hd : sig.diagBits = 0#3 <;> simp [diagsOf_concat, h.diag_eq c x hx, hd]
  · simpa [diagsOf_concat, Ne.symm hc] using h.diag_eq c ch ((hother hc).symm.trans hch)

end Machine

/-- Settles O48: a refusal and a transaction that is carried out each add to the record what they append to the channel. -/
theorem stepKeepsTheRecordOfTheRun : Obligations.StepKeepsTheRecordOfTheRun := fun _ _ =>
  step_keeps (fun _ rest h => h.withInputs rest) (fun _ c why h => h.refuse c why)
    fun _ _ _ r sig _ hch _ h => h.commit hch r sig

/-- Settles O49: at power-on no operation has been applied and every channel's `OUT` and `DIAG` are empty. -/
theorem recordOfTheRunHoldsAtPowerOn : Obligations.RecordOfTheRunHoldsAtPowerOn := fun _ _ _ =>
  ⟨fun _ _ h => by obtain ⟨k, rfl⟩ := mem_powerOn (List.mem_of_getElem? h); rfl,
   fun _ _ h => by obtain ⟨k, rfl⟩ := mem_powerOn (List.mem_of_getElem? h); rfl⟩

/-- Settles O51: at power-on no operation has been applied and every channel is at `Start`. -/
theorem advanceCountHoldsAtPowerOn : Obligations.AdvanceCountHoldsAtPowerOn := fun _ _ _ _ _ h => by
  obtain ⟨k, rfl⟩ := mem_powerOn (List.mem_of_getElem? h)
  rfl

end Sys2Proof.Machine
end

section
/-! ## `reset_out` without a reset line (spec/10_state.md R26) -/

namespace Sys2Proof.Machine

variable {p : Params} {l : Level}

/-- The registers `b` are `a`, or `a` with the level `l` in `reset_out`. -/
def UnreadResetOut (l : Level) (a b : Regs) : Prop :=
  b = a ∨ b = { a with resetOut := l }

theorem UnreadResetOut.of_level (a : Regs) : UnreadResetOut l a { a with resetOut := l } := .inr rfl

/-- Without a line the level is not output either (R30). -/
theorem UnreadResetOut.sameLevels (hp : p.resetLinePresent = false) {a b : Regs} (h : UnreadResetOut l a b) :
    SameLevels p a b := by
  rcases h with rfl | rfl
  · exact ⟨rfl, rfl⟩
  · exact ⟨rfl, by simp [resetLineLevel, hp]⟩

/-- The accumulator carries `reset_out` along. -/
theorem accumulate_resetOut (r : Regs) (bit ok : Bool) :
    accumulate p bit ok { r with resetOut := l } =
      ({ (accumulate p bit ok r).1 with resetOut := l }, (accumulate p bit ok r).2) := by
  unfold accumulate
  split_ifs <;> rfl

theorem accumulateEdge_unreadResetOut (v : Verdict) (diag : DiagBits) (bit ok : Bool) (r : Regs) :
    Reply.Rel (UnreadResetOut l) (accumulateEdge p v diag bit ok r)
      (accumulateEdge p v diag bit ok { r with resetOut := l }) := by
  unfold accumulateEdge
  rw [accumulate_resetOut (l := l) r]
  exact .done (.of_level _) _

theorem edgeReply_unreadResetOut (t : Nat) (bit ok : Bool) (r : Regs) :
    Reply.Rel (UnreadResetOut l) (edgeReply p t bit ok r) (edgeReply p t bit ok { r with resetOut := l }) := by
  have hclass : classify p t { r with resetOut := l } = classify p t r := rfl
  unfold edgeReply
  rw [hclass]
  split_ifs
  · exact .done (.of_level _) _
  · cases classify p t r with
    | noise => exact .done (.of_level _) _
    | spuriousStart => exact .done (.of_level _) _
    | normal => exact accumulateEdge_unreadResetOut _ _ bit ok (r.acceptAt t)
    | frameLoss =>
      simp only [frameLossEdge]
      split_ifs
      · exact accumulateEdge_unreadResetOut _ _ bit ok (r.resync.acceptAt t)
      · exact .done (.of_level _) _

theorem openReply_unreadResetOut (r : Regs) :
    Reply.Rel (UnreadResetOut l) (openReply p r) (openReply p { r with resetOut := l }) := by
  unfold openReply
  split_ifs
  · exact .refuse _
  · exact .done (.inl rfl) _
  · exact .done (.of_level _) _

theorem closeReply_unreadResetOut (r : Regs) :
    Reply.Rel (UnreadResetOut l) (closeReply r) (closeReply { r with resetOut := l }) := by
  unfold closeReply
  split_ifs
  · exact .refuse _
  · exact .done (.of_level _) _

/-- HOLD_DONE overwrites the level (R169, R170). -/
theorem holdDoneReply_unreadResetOut (r : Regs) :
    Reply.Rel (UnreadResetOut l) (holdDoneReply r) (holdDoneReply { r with resetOut := l }) := by
  unfold holdDoneReply
  cases r.phase with
  | rstIdle => exact .done (.inl rfl) _
  | rstActive => exact .done (.inl rfl) _
  | closed => exact .refuse _
  | opened => exact .refuse _

/-- R26: no operation computes anything from `reset_out`. -/
theorem replyOf_unreadResetOut (i : Instr) (r : Regs) :
    Reply.Rel (UnreadResetOut l) (replyOf p i r) (replyOf p i { r with resetOut := l }) := by
  cases i with
  | nop c ign => exact .done (.of_level r) _
  | edge c t d dOk => exact edgeReply_unreadResetOut t d dOk r
  | openCh c ign => exact openReply_unreadResetOut r
  | closeCh c ign => exact closeReply_unreadResetOut r
  | holdDone c ign => exact holdDoneReply_unreadResetOut r
  | reserved c ctl => exact .refuse _

/-- Settles O56: the answers of an operation agree up to the level, which no output shows without a line. -/
theorem resetOutIsNotReadWithoutALine : Obligations.ResetOutIsNotReadWithoutALine := by
  unfold Obligations.ResetOutIsNotReadWithoutALine
  intro i s u c l ch h hline hu
  obtain ⟨v, b, hv, hb, hexec⟩ := exec_withRegs (R := UnreadResetOut l) (fun _ _ => UnreadResetOut.sameLevels hline) h
    (UnreadResetOut.of_level ch.regs) (replyOf_unreadResetOut i ch.regs) hu
  refine ⟨u.withRegs c v b, hexec, ?_⟩
  rcases hb with rfl | rfl
  · exact .inl (State.withRegs_self hv)
  · exact .inr ⟨v, hv, rfl⟩

end Sys2Proof.Machine
end

section
/-! ## Steps and runs (spec/20_memory.md R53, R59) -/

namespace Sys2Proof.Machine

variable {i : Instr} {s u : State}

/-- The operations still to come are the environment's: a transaction neither reads nor writes them (R18). -/
theorem State.transact_withInputs (c : Nat) (f : Regs → Reply) (s : State) (q : List Presented) :
    State.transact c f { s with inputs := q } = { s.transact c f with inputs := q } := by
  rcases State.transact_cases c f s with ⟨h, ht⟩ | ⟨ch, why, h, hf, ht⟩ | ⟨ch, r, sig, h, hf, ht⟩
  · rw [ht]; exact State.transact_none h
  · rw [ht]; exact State.transact_refuse h hf
  · rw [ht]; exact State.transact_done h hf

/-- An operation answers a next state, and the same one whatever operations are still to come (R248). -/
theorem exec_withInputs (i : Instr) (s : State) (q : List Presented) :
    ∃ u, exec i s = .next u ∧ exec i { s with inputs := q } = .next { u with inputs := q } := by
  cases i with
  | reserved c ctl => exact ⟨_, rfl, rfl⟩
  | nop c ign => exact ⟨_, rfl, congrArg _ (State.transact_withInputs c _ s q)⟩
  | edge c t d dOk => exact ⟨_, rfl, congrArg _ (State.transact_withInputs c _ s q)⟩
  | openCh c ign => exact ⟨_, rfl, congrArg _ (State.transact_withInputs c _ s q)⟩
  | closeCh c ign => exact ⟨_, rfl, congrArg _ (State.transact_withInputs c _ s q)⟩
  | holdDone c ign => exact ⟨_, rfl, congrArg _ (State.transact_withInputs c _ s q)⟩

theorem exec_inputs (hu : exec i s = .next u) : u.inputs = s.inputs := by
  rcases exec_next_cases hu with ⟨why, rfl⟩ | ⟨ch, r, sig, -, -, rfl⟩ <;> rfl

theorem step_of_inputs_cons {o : Presented} {rest : List Presented} (h : s.inputs = o :: rest) :
    step s = exec (decode s.params o) { s with inputs := rest } := by
  simp [step, State.fetch, h]

theorem step_of_inputs_nil (h : s.inputs = []) : step s = .next s := by
  simp [step, State.fetch, h]

/-- Settles O7: the two cases of the queue. -/
theorem stepRunsTheDecodedOperation : Obligations.StepRunsTheDecodedOperation :=
  ⟨fun _ _ _ => step_of_inputs_cons, fun _ => step_of_inputs_nil⟩

/-- Settles O9, by induction on the presented operations: the step applies the first of them with the others still in the
queue, and these do not matter to it (`exec_withInputs`). -/
theorem runAppliesOperationsInOrder : Obligations.RunAppliesOperationsInOrder := by
  unfold Obligations.RunAppliesOperationsInOrder
  intro ops rest
  induction ops with
  | nil =>
    rintro s rfl
    rfl
  | cons o ops ih =>
    intro s h
    obtain ⟨u, hu, hu'⟩ := exec_withInputs (decode s.params o) { s with inputs := ops ++ rest } rest
    have hstep : step s = .next u := (step_of_inputs_cons h).trans hu
    simpa [runSteps, runOps, hstep, hu', exec_params hu] using ih u (exec_inputs hu)

end Sys2Proof.Machine
end

section
/-! ## A channel that is not armed (spec/20_memory.md R61) -/

namespace Sys2Proof.Machine

variable {p : Params} {r : Regs}

/-- The registers hold nothing of a frame: the state that R130 and R162 reset to. -/
def Regs.IsReset (r : Regs) : Prop :=
  r.position = 0 ∧ r.acc = 0 ∧ r.tlastValid = false

/-- R39: only an open channel is armed. -/
theorem Regs.Inv.isReset_of_disarmed (h : r.Inv p) (ha : r.armed = false) : r.IsReset :=
  h.not_open fun ho => by simp [h.armed_iff.mpr ho] at ha

/-- What an operation answers on a disarmed channel is reset: OPEN and CLOSE reset it, EDGE does nothing to it, and HOLD_DONE
keeps the decoder's registers as they are (R101, R162, R166, R170). -/
theorem replyOf_isReset (i : Instr) (hr : r.IsReset) (ha : r.armed = false) : ((replyOf p i r).regs r).IsReset := by
  cases i with
  | nop c ign => exact hr
  | edge c t d dOk => rw [replyOf, edgeReply_of_disarmed ha]; exact hr
  | openCh c ign =>
    rcases openReply_cases p r with ⟨-, he⟩ | ⟨-, -, he⟩ | ⟨-, -, he⟩ <;> rw [replyOf, he]
    · exact hr
    · exact ⟨rfl, rfl, rfl⟩
    · exact ⟨rfl, rfl, rfl⟩
  | closeCh c ign =>
    rcases closeReply_cases r with ⟨-, he⟩ | ⟨-, he⟩ <;> rw [replyOf, he]
    · exact hr
    · exact ⟨rfl, rfl, rfl⟩
  | holdDone c ign =>
    rcases holdDoneReply_cases r with ⟨-, he⟩ | ⟨-, he⟩ | ⟨-, he⟩ <;> rw [replyOf, he] <;> exact hr
  | reserved c ctl => exact hr

/-- Settles O40: a channel that is not armed is reset (R39), and no operation on it, arming or not, leaves it otherwise. -/
theorem stateIsResetBeforeArming : Obligations.StateIsResetBeforeArming := by
  unfold Obligations.StateIsResetBeforeArming
  intro i s u c ch v hs hu hch hv hdisarmed harmed
  have hreset : ch.regs.IsReset := (hs.regs ch (List.mem_of_getElem? hch)).isReset_of_disarmed hdisarmed
  have hc : c = i.chan := by
    by_contra hc
    cases ((exec_getElem?_ne hu hc).trans hch).symm.trans hv
    simp [hdisarmed] at harmed
  have hregs : v.regs = (replyOf s.params i ch.regs).regs ch.regs := by
    simpa [effectOn, hc, Channel.seen] using congrArg Prod.fst (seen_of_exec hu hch hv)
  exact show v.regs.IsReset from hregs ▸ replyOf_isReset i hreset hdisarmed

end Sys2Proof.Machine
end

section
/-! ## The decoder's rows (spec/30_encoding.md R70-R75, R81)

Decoding said once: an equation for each row of the table, and the case analysis over all control words. -/

namespace Sys2Proof

variable {p : Params} {o : Presented} {i : Instr} {ctl : CtlWord}

/-- R75, in the words of its two cases. -/
theorem reservedCtl_iff :
    reservedCtl ctl = true ↔ ctlOp ctl = 5#3 ∨ ctlOp ctl = 6#3 ∨ ctlOp ctl = 7#3 ∨ ctlRsv ctl ≠ 0#3 := by
  have hop : ∀ op : BitVec 3, 5 ≤ op.toNat ↔ op = 5#3 ∨ op = 6#3 ∨ op = 7#3 := by decide
  simp [reservedCtl, hop, or_assoc]

theorem decode_of_reservedCtl (h : reservedCtl o.ctl = true) : decode p o = .reserved (busChan p o.chan) o.ctl := by
  by_cases hrsv : ctlRsv o.ctl = 0#3
  · rcases reservedCtl_iff.mp h with hop | hop | hop | hop
    · simp [decode, hrsv, hop]
    · simp [decode, hrsv, hop]
    · simp [decode, hrsv, hop]
    · exact absurd hrsv hop
  · simp [decode, hrsv]

section Rows
variable (hrsv : ctlRsv o.ctl = 0#3)
include hrsv

theorem decode_of_op_nop (hop : ctlOp o.ctl = 0#3) : decode p o = .nop (busChan p o.chan) (ctlIgn o.ctl) := by
  simp [decode, hrsv, hop]

theorem decode_of_op_edge (hop : ctlOp o.ctl = 1#3) :
    decode p o = .edge (busChan p o.chan) (busTime p o.time) (ctlD o.ctl) (ctlDOk o.ctl) := by
  simp [decode, hrsv, hop]

theorem decode_of_op_open (hop : ctlOp o.ctl = 2#3) : decode p o = .openCh (busChan p o.chan) (ctlIgn o.ctl) := by
  simp [decode, hrsv, hop]

theorem decode_of_op_close (hop : ctlOp o.ctl = 3#3) : decode p o = .closeCh (busChan p o.chan) (ctlIgn o.ctl) := by
  simp [decode, hrsv, hop]

theorem decode_of_op_holdDone (hop : ctlOp o.ctl = 4#3) : decode p o = .holdDone (busChan p o.chan) (ctlIgn o.ctl) := by
  simp [decode, hrsv, hop]

end Rows

/-- Every control word is reserved or has `rsv` = 0 and one of the five operation codes (R81). -/
theorem ctl_cases (ctl : CtlWord) :
    reservedCtl ctl = true ∨
    (ctlRsv ctl = 0#3 ∧
      (ctlOp ctl = 0#3 ∨ ctlOp ctl = 1#3 ∨ ctlOp ctl = 2#3 ∨ ctlOp ctl = 3#3 ∨ ctlOp ctl = 4#3)) := by
  have hop : ∀ op : BitVec 3, op = 0#3 ∨ op = 1#3 ∨ op = 2#3 ∨ op = 3#3 ∨ op = 4#3 ∨ op = 5#3 ∨ op = 6#3 ∨ op = 7#3 := by
    decide
  by_cases hrsv : ctlRsv ctl = 0#3
  · rcases hop (ctlOp ctl) with h | h | h | h | h | h | h | h <;> simp [reservedCtl_iff, hrsv, h]
  · exact .inl (reservedCtl_iff.mpr (.inr (.inr (.inr hrsv))))

/-- Everything the decoder can answer. -/
theorem decode_cases (p : Params) (o : Presented) :
    (reservedCtl o.ctl = true ∧ decode p o = .reserved (busChan p o.chan) o.ctl) ∨
    (ctlRsv o.ctl = 0#3 ∧
      ((ctlOp o.ctl = 0#3 ∧ decode p o = .nop (busChan p o.chan) (ctlIgn o.ctl)) ∨
       (ctlOp o.ctl = 1#3 ∧
          decode p o = .edge (busChan p o.chan) (busTime p o.time) (ctlD o.ctl) (ctlDOk o.ctl)) ∨
       (ctlOp o.ctl = 2#3 ∧ decode p o = .openCh (busChan p o.chan) (ctlIgn o.ctl)) ∨
       (ctlOp o.ctl = 3#3 ∧ decode p o = .closeCh (busChan p o.chan) (ctlIgn o.ctl)) ∨
       (ctlOp o.ctl = 4#3 ∧ decode p o = .holdDone (busChan p o.chan) (ctlIgn o.ctl)))) := by
  rcases ctl_cases o.ctl with h | ⟨hrsv, hop | hop | hop | hop | hop⟩
  · exact .inl ⟨h, decode_of_reservedCtl h⟩
  · exact .inr ⟨hrsv, .inl ⟨hop, decode_of_op_nop hrsv hop⟩⟩
  · exact .inr ⟨hrsv, .inr (.inl ⟨hop, decode_of_op_edge hrsv hop⟩)⟩
  · exact .inr ⟨hrsv, .inr (.inr (.inl ⟨hop, decode_of_op_open hrsv hop⟩))⟩
  · exact .inr ⟨hrsv, .inr (.inr (.inr (.inl ⟨hop, decode_of_op_close hrsv hop⟩)))⟩
  · exact .inr ⟨hrsv, .inr (.inr (.inr (.inr ⟨hop, decode_of_op_holdDone hrsv hop⟩)))⟩

/-! ### Mnemonics -/

theorem mnemonic_eq_reserved_iff : i.mnemonic = "(reserved)" ↔ ∃ c ctl, i = .reserved c ctl := by
  cases i <;> simp [Instr.mnemonic]

/-- A word decodes to the reserved row exactly when it is reserved. -/
theorem mnemonic_decode_eq_reserved_iff : (decode p o).mnemonic = "(reserved)" ↔ reservedCtl o.ctl = true := by
  refine ⟨fun h => ?_, fun h => by rw [decode_of_reservedCtl h]; rfl⟩
  obtain ⟨c, ctl, he⟩ := mnemonic_eq_reserved_iff.mp h
  rcases decode_cases p o with ⟨hres, -⟩ | ⟨-, hrow⟩
  · exact hres
  · simp [he] at hrow

/-- Only a word with the operation code of EDGE decodes to an EDGE. -/
theorem ctl_of_mnemonic_edge (h : (decode p o).mnemonic = "EDGE") : ctlRsv o.ctl = 0#3 ∧ ctlOp o.ctl = 1#3 := by
  rcases decode_cases p o with ⟨-, he⟩ | ⟨hrsv, ⟨-, he⟩ | ⟨hop, -⟩ | ⟨-, he⟩ | ⟨-, he⟩ | ⟨-, he⟩⟩
  · simp [he, Instr.mnemonic] at h
  · simp [he, Instr.mnemonic] at h
  · exact ⟨hrsv, hop⟩
  · simp [he, Instr.mnemonic] at h
  · simp [he, Instr.mnemonic] at h
  · simp [he, Instr.mnemonic] at h

end Sys2Proof
end

section
/-! ## Encoding and decoding are inverse (spec/30_encoding.md R70-R75, R81, R83) -/

namespace Sys2Proof

variable {p : Params} {o : Presented}

@[simp] theorem encode_ctl (i : Instr) : (encode i).ctl = encodeCtl i := by
  cases i <;> rfl

/-- Settles O1, row by row: the packed word has the fields of its row, and well-formed operands pass the bus unchanged. -/
theorem decodeOfEncodeIsTheOperation : Obligations.DecodeOfEncodeIsTheOperation := by
  unfold Obligations.DecodeOfEncodeIsTheOperation
  intro p i hwf
  cases i with
  | nop c ign =>
    rw [decode_of_op_nop (by simp [encodeCtl]) (by simp [encodeCtl])]
    simp [encode, encodeCtl, busChan_of_ok hwf]
  | edge c t d dOk =>
    obtain ⟨hc, ht⟩ : p.chanOperandOk c = true ∧ t < 2 ^ p.tsWidth := by simpa [Instr.wellFormed] using hwf
    rw [decode_of_op_edge (by simp [encodeCtl]) (by simp [encodeCtl])]
    simp [encode, encodeCtl, busChan_of_ok hc, busTime_of_lt ht]
  | openCh c ign =>
    rw [decode_of_op_open (by simp [encodeCtl]) (by simp [encodeCtl])]
    simp [encode, encodeCtl, busChan_of_ok hwf]
  | closeCh c ign =>
    rw [decode_of_op_close (by simp [encodeCtl]) (by simp [encodeCtl])]
    simp [encode, encodeCtl, busChan_of_ok hwf]
  | holdDone c ign =>
    rw [decode_of_op_holdDone (by simp [encodeCtl]) (by simp [encodeCtl])]
    simp [encode, encodeCtl, busChan_of_ok hwf]
  | reserved c ctl =>
    obtain ⟨hc, hctl⟩ : p.chanOperandOk c = true ∧ reservedCtl ctl = true := by simpa [Instr.wellFormed] using hwf
    rw [decode_of_reservedCtl (by simpa [encodeCtl] using hctl)]
    simp [encode, encodeCtl, busChan_of_ok hc]

/-- The control word of a decoded operation is the word it was decoded from: a named row keeps both of its fields, and the
reserved row the word itself. -/
theorem encodeCtl_decode (p : Params) (o : Presented) : encodeCtl (decode p o) = o.ctl := by
  rcases decode_cases p o with ⟨-, he⟩ | ⟨hrsv, hrow⟩
  · rw [he, encodeCtl]
  · have hfields := packCtl_fields o.ctl hrsv
    rcases hrow with ⟨hop, he⟩ | ⟨hop, he⟩ | ⟨hop, he⟩ | ⟨hop, he⟩ | ⟨hop, he⟩ <;> rw [hop] at hfields
    · rw [he, encodeCtl, hfields]
    · rw [he, encodeCtl, sampleBits_eq_ign, hfields]
    · rw [he, encodeCtl, hfields]
    · rw [he, encodeCtl, hfields]
    · rw [he, encodeCtl, hfields]

/-- Settles O2: the word by `encodeCtl_decode`; the operands of an EDGE pass the bus unchanged. -/
theorem encodeOfDecodeKeepsTheWord : Obligations.EncodeOfDecodeKeepsTheWord := by
  unfold Obligations.EncodeOfDecodeKeepsTheWord
  intro p o
  have hword : (encode (decode p o)).ctl = o.ctl := by rw [encode_ctl, encodeCtl_decode]
  refine ⟨hword, fun htime hchan hedge => ?_⟩
  obtain ⟨hrsv, hop⟩ := ctl_of_mnemonic_edge hedge
  have hc : busChan p o.chan = o.chan := busChan_of_ok (by simpa [Params.chanOperandOk] using hchan)
  rw [decode_of_op_edge hrsv hop, hc, busTime_of_lt htime] at hword ⊢
  exact congrArg (Presented.mk · o.time o.chan) hword

/-- The encoded word of every well-formed operation selects the row of its mnemonic and no other. -/
theorem rowMatch (i : Instr) : Laws.RowMatch.Statement i := by
  cases i with
  | nop c ign => exact Laws.RowMatch.nop c ign
  | edge c t d dOk => exact Laws.RowMatch.edge c t d dOk
  | openCh c ign => exact Laws.RowMatch.openCh c ign
  | closeCh c ign => exact Laws.RowMatch.closeCh c ign
  | holdDone c ign => exact Laws.RowMatch.holdDone c ign
  | reserved c ctl => exact Laws.RowMatch.reserved c ctl

/-- The rows that a control word selects: the one it decodes to, or none if it is reserved. -/
theorem selectedRows_eq (p : Params) (o : Presented) :
    ((opcodeRows.filter fun row => o.ctl &&& row.2.2 == row.2.1).map fun row => row.1) =
      if reservedCtl o.ctl = true then [] else [(decode p o).mnemonic] := by
  have h := rowMatch (decode p o) p (decode_wellFormed p o)
  simpa only [encode_ctl, encodeCtl_decode, mnemonic_decode_eq_reserved_iff] using h

/-- Settles O3: the list of selected rows is empty for a reserved word, and has one element for any other. -/
theorem everyWordSelectsOneRowOrIsReserved : Obligations.EveryWordSelectsOneRowOrIsReserved := by
  unfold Obligations.EveryWordSelectsOneRowOrIsReserved
  intro p o
  have hrows := selectedRows_eq p o
  constructor
  · intro hres
    rw [if_pos hres, List.map_eq_nil_iff, List.filter_eq_nil_iff] at hrows
    exact ⟨mnemonic_decode_eq_reserved_iff.mpr hres, fun row hrow hsel => hrows row hrow (beq_iff_eq.mpr hsel)⟩
  · intro hnot
    rw [if_neg (by simp [hnot]), List.map_eq_singleton_iff] at hrows
    obtain ⟨row, hrow, hname⟩ := hrows
    have hsel : ∀ row', row' = row ↔ row' ∈ opcodeRows ∧ o.ctl &&& row'.2.2 = row'.2.1 := fun row' => by
      rw [← List.mem_singleton, ← hrow, List.mem_filter, beq_iff_eq]
    obtain ⟨hmem, hmatch⟩ := (hsel row).mp rfl
    exact ⟨row, hmem, hmatch, hname.symm, fun row' hmem' hmatch' => (hsel row').mpr ⟨hmem', hmatch'⟩⟩

/-- Settles O4, by evaluating the decoder on each word. -/
theorem wordsOfTheEncodingDecode : Obligations.WordsOfTheEncodingDecode := by
  unfold Obligations.WordsOfTheEncodingDecode
  decide

end Sys2Proof
end

section
/-! ## The bits of a control word that no rule reads (spec/30_encoding.md R73, R74) -/

namespace Sys2Proof.Machine

section Unread
variable (c : Nat) (x y : BitVec 2) (s : State)

/-- R74: NOP, OPEN, CLOSE and HOLD_DONE do not read `ev_ctl[4:3]`. -/
theorem exec_nop_congr : exec (.nop c x) s = exec (.nop c y) s := rfl
theorem exec_openCh_congr : exec (.openCh c x) s = exec (.openCh c y) s := rfl
theorem exec_closeCh_congr : exec (.closeCh c x) s = exec (.closeCh c y) s := rfl
theorem exec_holdDone_congr : exec (.holdDone c x) s = exec (.holdDone c y) s := rfl

/-- R75: which reserved word it is makes no difference. -/
theorem exec_reserved_congr (w w' : CtlWord) : exec (.reserved c w) s = exec (.reserved c w') s := rfl

/-- R73: the sample test comes before the data bit is read, so an EDGE with a failed sample does not read it. -/
theorem exec_edge_failedSample_congr (t : Nat) (d d' : Bool) :
    exec (.edge c t d false) s = exec (.edge c t d' false) s := rfl

end Unread

/-- Two transactions that differ at most in bits no rule reads: `ev_ctl[4:3]` of an operation that ignores them (R74), or the
data bit of an EDGE whose sample failed (R73). EDGEs with a valid sample are left out: there both bits are read. -/
structure AgreeOnReadFields (a b : Presented) : Prop where
  chan : a.chan = b.chan
  time : a.time = b.time
  rsv : ctlRsv a.ctl = ctlRsv b.ctl
  op : ctlOp a.ctl = ctlOp b.ctl
  sample : ctlOp b.ctl = 1#3 → ctlDOk a.ctl = false ∧ ctlDOk b.ctl = false

/-- Two such transactions have the same effect, row by row. -/
theorem AgreeOnReadFields.exec_decode_eq {a b : Presented} (h : AgreeOnReadFields a b) (p : Params) (s : State) :
    exec (decode p a) s = exec (decode p b) s := by
  obtain ⟨hchan, htime, hrsv, hop, hsample⟩ := h
  rcases decode_cases p b with ⟨hres, he⟩ | ⟨h0, ⟨hk, he⟩ | ⟨hk, he⟩ | ⟨hk, he⟩ | ⟨hk, he⟩ | ⟨hk, he⟩⟩
  · have hres' : reservedCtl a.ctl = true := by rwa [reservedCtl, hop, hrsv]
    rw [he, decode_of_reservedCtl hres', hchan]
    exact exec_reserved_congr ..
  · rw [he, decode_of_op_nop (hrsv.trans h0) (hop.trans hk), hchan]
    exact exec_nop_congr ..
  · obtain ⟨ha, hb⟩ := hsample hk
    rw [he, decode_of_op_edge (hrsv.trans h0) (hop.trans hk), hchan, htime, ha, hb]
    exact exec_edge_failedSample_congr ..
  · rw [he, decode_of_op_open (hrsv.trans h0) (hop.trans hk), hchan]
    exact exec_openCh_congr ..
  · rw [he, decode_of_op_close (hrsv.trans h0) (hop.trans hk), hchan]
    exact exec_closeCh_congr ..
  · rw [he, decode_of_op_holdDone (hrsv.trans h0) (hop.trans hk), hchan]
    exact exec_holdDone_congr ..

/-- The same of a step on the transaction at the head of the queue. -/
theorem AgreeOnReadFields.step_eq {a b : Presented} (h : AgreeOnReadFields a b) (s : State) (rest : List Presented) :
    step { s with inputs := a :: rest } = step { s with inputs := b :: rest } := by
  rw [step_of_inputs_cons rfl, step_of_inputs_cons rfl]
  exact h.exec_decode_eq _ _

/-- Writing bits 4:3 keeps `rsv` and `op`. -/
theorem fields_writeIgn : ∀ (x : BitVec 2) (ctl : CtlWord),
    ctlRsv ((ctl &&& 0xE7#8) ||| (x.setWidth 8 <<< 3)) = ctlRsv ctl ∧
    ctlOp ((ctl &&& 0xE7#8) ||| (x.setWidth 8 <<< 3)) = ctlOp ctl := by decide

/-- Flipping bit 3 keeps `rsv`, `op` and `d_ok`. -/
theorem fields_flipD : ∀ ctl : CtlWord,
    ctlRsv (ctl ^^^ 0x08#8) = ctlRsv ctl ∧ ctlOp (ctl ^^^ 0x08#8) = ctlOp ctl ∧
    ctlDOk (ctl ^^^ 0x08#8) = ctlDOk ctl := by decide

/-- R74: bits 4:3 of a word that is not EDGE's. -/
theorem AgreeOnReadFields.writeIgn {o : Presented} (hne : ctlOp o.ctl ≠ 1#3) (x : BitVec 2) :
    AgreeOnReadFields { o with ctl := (o.ctl &&& 0xE7#8) ||| (x.setWidth 8 <<< 3) } o where
  chan := rfl
  time := rfl
  rsv := (fields_writeIgn x o.ctl).1
  op := (fields_writeIgn x o.ctl).2
  sample hedge := absurd hedge hne

/-- R73: bit 3 of a word with `d_ok` = 0. -/
theorem AgreeOnReadFields.flipD {o : Presented} (hfail : ctlDOk o.ctl = false) :
    AgreeOnReadFields { o with ctl := o.ctl ^^^ 0x08#8 } o where
  chan := rfl
  time := rfl
  rsv := (fields_flipD o.ctl).1
  op := (fields_flipD o.ctl).2.1
  sample _ := ⟨(fields_flipD o.ctl).2.2.trans hfail, hfail⟩

/-- Settles O5: the new word has the same `rsv` and `op`, and no operation but EDGE reads another field. -/
theorem ignoredBitsHaveNoEffect : Obligations.IgnoredBitsHaveNoEffect :=
  fun s _ rest x hne => (AgreeOnReadFields.writeIgn hne x).step_eq s rest

/-- Settles O6: the new word has the same `rsv`, `op` and `d_ok`, and an EDGE with a failed sample does not read `d`. -/
theorem failedSampleCarriesNoData : Obligations.FailedSampleCarriesNoData :=
  fun s _ rest hfail => (AgreeOnReadFields.flipD hfail).step_eq s rest

end Sys2Proof.Machine
end

section
/-! ## What a refusal records (spec/70_reset_and_hazards.md R240) -/

namespace Sys2Proof.Machine

variable {s : State} {c : Nat}

/-- A refused operation on an existing channel shows that channel's levels and nothing else. -/
theorem State.refuse_of_channel {ch : Channel} (h : s.channels[c]? = some ch) (why : RefuseReason) :
    s.refuse c why = { s with
      refusals := s.refusals ++ [why]
      trace := s.trace ++ [{ chan := c, byte := none, verdict := none, diagBits := 0#3, irqEnable := some ch.regs.armed,
                             resetLine := resetLineLevel s.params ch.regs.resetOut }] } := by
  simp [State.refuse, State.regsAt, h, outputsOf]

/-- A refused operation on no channel shows no levels. -/
theorem State.refuse_of_no_channel (h : s.channels[c]? = none) (why : RefuseReason) :
    s.refuse c why = { s with
      refusals := s.refusals ++ [why]
      trace := s.trace ++ [{ chan := c, byte := none, verdict := none, diagBits := 0#3, irqEnable := none,
                             resetLine := none }] } := by
  simp [State.refuse, State.regsAt, h, outputsOf]

/-- Settles O36: the decoder's reserved row, and the refusal it is. -/
theorem reservedWordIsRefused : Obligations.ReservedWordIsRefused :=
  ⟨fun _ _ h => decode_of_reservedCtl (reservedCtl_iff.mpr h),
   fun _ _ _ _ h => congrArg Host.Outcome.next (State.refuse_of_channel h .reservedEncoding)⟩

/-- Settles O37: a reserved word is refused before its channel is looked at, and every other operation is a transaction on a
channel that is not there. -/
theorem channelOutOfRangeIsRefused : Obligations.ChannelOutOfRangeIsRefused := by
  unfold Obligations.ChannelOutOfRangeIsRefused
  intro s i hs hchan
  have hnone : s.channels[i.chan]? = none := List.getElem?_eq_none (hs.channel_count ▸ hchan)
  rw [← State.refuse_of_no_channel hnone]
  by_cases hres : i.mnemonic = "(reserved)"
  · rw [if_pos hres]
    obtain ⟨c, ctl, rfl⟩ := mnemonic_eq_reserved_iff.mp hres
    rfl
  · rw [if_neg hres, (exec_eq i s).resolve_left (hres ∘ mnemonic_eq_reserved_iff.mpr), State.transact_none hnone]

end Sys2Proof.Machine
end

section
/-! ## The diagnostic events of one operation (spec/30_encoding.md R77, spec/60_exceptions.md R204) -/

namespace Sys2Proof.Machine

variable {p : Params} {r : Regs} {i : Instr} {s u : State} {e : OpOutputs}

/-- R77: the sets of events that one operation can report. -/
def diagSets : List DiagBits := [0b000#3, 0b001#3, 0b010#3, 0b011#3, 0b100#3]

/-- The diagnostic events that a reply reports. -/
def Reply.diagBits : Reply → DiagBits
  | .done _ sig => sig.diagBits
  | .refuse _ => 0#3

/-- ACCUMULATE reports at most one event, and at position 0 only a failed sample (R135). -/
theorem accumulate_diagBits_cases (p : Params) (bit ok : Bool) (r : Regs) :
    (accumulate p bit ok r).2.diagBits = 0#3 ∨
    (accumulate p bit ok r).2.diagBits = dgSampleFail ∨
    (accumulate p bit ok r).2.diagBits = dgInvalidState ∧ r.position ≠ 0 := by
  rcases accumulate_cases p bit ok r with ⟨-, he⟩ | ⟨-, -, he⟩ | ⟨-, -, -, he⟩ | ⟨-, -, -, he⟩ | ⟨-, hpos, -, he⟩
  · exact .inr (.inl (by rw [he]))
  · exact .inl (by rw [he])
  · exact .inl (by rw [he])
  · exact .inl (by rw [he])
  · exact .inr (.inr ⟨by rw [he], Nat.ne_of_gt hpos⟩)

theorem accumulateEdge_diagBits (v : Verdict) (diag : DiagBits) (bit ok : Bool) :
    (accumulateEdge p v diag bit ok r).diagBits = diag ||| (accumulate p bit ok r).2.diagBits := rfl

/-- The order of R204: a frame loss resynchronises before ACCUMULATE, so it never comes with an invalid state. -/
theorem edgeReply_diagBits_mem (p : Params) (t : Nat) (bit ok : Bool) (r : Regs) :
    (edgeReply p t bit ok r).diagBits ∈ diagSets := by
  rcases edgeReply_cases p t bit ok r with
    ⟨-, he⟩ | ⟨-, ⟨-, he⟩ | ⟨-, he⟩ | ⟨-, he⟩ | ⟨-, -, he⟩ | ⟨-, -, he⟩⟩ <;> rw [he]
  case inl | inr.inl | inr.inr.inl => exact (by decide : 0#3 ∈ diagSets)
  case inr.inr.inr.inl =>
    rw [accumulateEdge_diagBits]
    rcases accumulate_diagBits_cases p bit ok (r.acceptAt t) with h | h | ⟨h, -⟩ <;> rw [h] <;> decide
  case inr.inr.inr.inr.inl =>
    rw [accumulateEdge_diagBits]
    rcases accumulate_diagBits_cases p bit ok (r.resync.acceptAt t) with h | h | ⟨-, h⟩
    · rw [h]; decide
    · rw [h]; decide
    · exact absurd rfl h
  case inr.inr.inr.inr.inr => exact (by decide : dgFrameLoss ∈ diagSets)

/-- The lifecycle operations report nothing (R160-R172). -/
theorem openReply_diagBits : (openReply p r).diagBits = 0#3 := by
  rcases openReply_cases p r with ⟨-, he⟩ | ⟨-, -, he⟩ | ⟨-, -, he⟩ <;> rw [he] <;> rfl

theorem closeReply_diagBits : (closeReply r).diagBits = 0#3 := by
  rcases closeReply_cases r with ⟨-, he⟩ | ⟨-, he⟩ <;> rw [he] <;> rfl

theorem holdDoneReply_diagBits : (holdDoneReply r).diagBits = 0#3 := by
  rcases holdDoneReply_cases r with ⟨-, he⟩ | ⟨-, he⟩ | ⟨-, he⟩ <;> rw [he] <;> rfl

/-- R77 of every operation. -/
theorem replyOf_diagBits_mem (p : Params) (i : Instr) (r : Regs) : (replyOf p i r).diagBits ∈ diagSets := by
  cases i with
  | nop c ign => exact (by decide : 0#3 ∈ diagSets)
  | edge c t d dOk => exact edgeReply_diagBits_mem p t d dOk r
  | openCh c ign => rw [replyOf, openReply_diagBits]; decide
  | closeCh c ign => rw [replyOf, closeReply_diagBits]; decide
  | holdDone c ign => rw [replyOf, holdDoneReply_diagBits]; decide
  | reserved c ctl => exact (by decide : 0#3 ∈ diagSets)

/-- What an operation adds to the record reports no event, or those of its reply. -/
theorem exec_diagBits_cases (hu : exec i s = .next u) (he : u.trace = s.trace ++ [e]) :
    e.diagBits = 0#3 ∨ ∃ r, e.diagBits = (replyOf s.params i r).diagBits := by
  rcases exec_next_cases hu with ⟨why, rfl⟩ | ⟨ch, r, sig, -, hr, rfl⟩
  · have : outputsOf s.params i.chan (s.regsAt i.chan) {} = e := by simpa using he
    exact .inl (by rw [← this]; rfl)
  · have : outputsOf s.params i.chan (some r) sig = e := by simpa using he
    exact .inr ⟨ch.regs, by rw [hr, ← this]; rfl⟩

/-- Settles O27: a refusal reports nothing, and a transaction what its reply does (`replyOf_diagBits_mem`). -/
theorem diagnosticSetsThatOccur : Obligations.DiagnosticSetsThatOccur := by
  unfold Obligations.DiagnosticSetsThatOccur
  intro i s u e hu he
  refine ⟨show e.diagBits ∈ diagSets from ?_, by simp [OpOutputs.diagValid]⟩
  rcases exec_diagBits_cases hu he with h | ⟨r, h⟩ <;> rw [h]
  · decide
  · exact replyOf_diagBits_mem s.params i r

end Sys2Proof.Machine
end

section
/-! ## The classifier's chain (spec/40_edge_classifier.md R102-R111)

One equation for each test of R109. Under the hypotheses of its test, each says the verdict, and no proof below opens
`classify` again. -/

namespace Sys2Proof.Machine

variable {p : Params} {t : Nat} {r : Regs}

theorem classify_of_short (hv : r.tlastValid = true) (hshort : delta p t r.tlast < p.minInterval) :
    classify p t r = .noise := by
  simp [classify, hv, hshort]

theorem classify_of_long (hv : r.tlastValid = true) (hmin : p.minInterval ≤ delta p t r.tlast)
    (hlong : p.maxInterval < delta p t r.tlast) :
    classify p t r = if r.position = 0 then .normal else .frameLoss := by
  simp [classify, hv, hmin.not_gt, hlong]

theorem classify_of_inBand (hv : r.tlastValid = true) (hmin : p.minInterval ≤ delta p t r.tlast)
    (hmax : delta p t r.tlast ≤ p.maxInterval) :
    classify p t r =
      if r.position = 0 ∧ delta p t r.tlast < p.minIdleBetweenBytes then .spuriousStart else .normal := by
  simp [classify, hv, hmin.not_gt, hmax.not_gt]

/-- R107 in the part of the band that is below the idle threshold. -/
theorem classify_of_belowIdle (hv : r.tlastValid = true) (hmin : p.minInterval ≤ delta p t r.tlast)
    (hmax : delta p t r.tlast ≤ p.maxInterval) (hidle : delta p t r.tlast < p.minIdleBetweenBytes) :
    classify p t r = if r.position = 0 then .spuriousStart else .normal := by
  simp [classify_of_inBand hv hmin hmax, hidle]

/-- R120: the premise of an accepted start edge is what the chain asks for at position 0. -/
theorem StartAccepted.classify_eq (h : StartAccepted p r t) : classify p t r = .normal := by
  obtain ⟨hpos, hv | ⟨hmin, hgap⟩⟩ := h
  · exact classify_of_absent hv
  · cases hv : r.tlastValid with
    | false => exact classify_of_absent hv
    | true =>
      rcases Nat.lt_or_ge p.maxInterval (delta p t r.tlast) with hlong | hmax
      · rw [classify_of_long hv hmin hlong, if_pos hpos]
      · have hidle : p.minIdleBetweenBytes ≤ delta p t r.tlast := hgap.resolve_left hmax.not_gt
        rw [classify_of_inBand hv hmin hmax, if_neg fun h => hidle.not_gt h.2]

/-- The parameters with another `MIN_IDLE_BETWEEN_BYTES`. -/
def Params.withIdle (p : Params) (m : Nat) : Params := { p with minIdleBetweenBytes := m }

/-- R110: an idle threshold above the band stands in no equation of the chain. -/
theorem classify_withIdle_aboveBand {m : Nat} (hidle : p.maxInterval < p.minIdleBetweenBytes) (hm : p.maxInterval < m) :
    classify (Params.withIdle p m) t r = classify p t r := by
  cases hv : r.tlastValid with
  | false => exact (classify_of_absent (p := Params.withIdle p m) hv).trans (classify_of_absent hv).symm
  | true =>
    rcases Nat.lt_or_ge (delta p t r.tlast) p.minInterval with hshort | hmin
    · exact (classify_of_short (p := Params.withIdle p m) hv hshort).trans (classify_of_short hv hshort).symm
    · rcases Nat.lt_or_ge p.maxInterval (delta p t r.tlast) with hlong | hmax
      · exact (classify_of_long (p := Params.withIdle p m) hv hmin hlong).trans (classify_of_long hv hmin hlong).symm
      · exact (classify_of_belowIdle (p := Params.withIdle p m) hv hmin hmax (hmax.trans_lt hm)).trans
          (classify_of_belowIdle hv hmin hmax (hmax.trans_lt hidle)).symm

/-- Settles O12: the chain's equations for a threshold above the band, in the band and beyond it at position 0. -/
theorem idleThresholdAboveTheBandIsInvisible : Obligations.IdleThresholdAboveTheBandIsInvisible := by
  unfold Obligations.IdleThresholdAboveTheBandIsInvisible
  refine fun p t r hidle => ⟨fun m hm => classify_withIdle_aboveBand hidle hm,
    fun hv hpos hmin => ⟨fun hmax => ?_, fun hlong => ?_⟩⟩
  · rw [classify_of_belowIdle hv hmin hmax (hmax.trans_lt hidle), if_pos hpos]
  · rw [classify_of_long hv hmin hlong, if_pos hpos]

/-- Settles O13: the chain's equations at the three values. -/
theorem sourceValuesGiveTheTableOfVerdicts : Obligations.SourceValuesGiveTheTableOfVerdicts := by
  unfold Obligations.SourceValuesGiveTheTableOfVerdicts
  refine fun p t r hmin hmax hidle hv => ⟨fun h12 => ?_, fun h13 h120 => ?_, fun h121 => ?_⟩
  · exact classify_of_short hv (by omega)
  · exact classify_of_belowIdle hv (by omega) (by omega) (by omega)
  · exact classify_of_long hv (by omega) (by omega)

/-- R103: the bus carries each clock modulo `2^TS_WIDTH`, and so does the difference. -/
theorem delta_busTime (p : Params) {T T' : Nat} (h : T ≤ T') :
    delta p (busTime p T') (busTime p T) = (T' - T) % 2 ^ p.tsWidth := by
  unfold delta busTime
  rw [Int.natCast_emod, Int.natCast_emod, ← Int.sub_emod, ← Int.natCast_sub h, ← Int.natCast_emod, Int.toNat_natCast]

/-- Settles O14: below `2^TS_WIDTH` the remainder is the elapsed time itself. -/
theorem deltaIsTheElapsedTimeModuloTheWidth : Obligations.DeltaIsTheElapsedTimeModuloTheWidth :=
  fun p _ _ h => ⟨fun hlt => (delta_busTime p h).trans (Nat.mod_eq_of_lt hlt), delta_busTime p h⟩

end Sys2Proof.Machine
end

section
/-! ## EDGE as a transaction (spec/40_edge_classifier.md R100, R101, R109, R113) -/

namespace Sys2Proof.Machine

variable {p : Params} {s : State} {c t k : Nat} {d dOk : Bool} {ch : Channel} {r : Regs} {sig : Signals}

/-- An EDGE on an existing channel is carried out as it answers (R53, R100). -/
theorem exec_edge_done (h : s.channels[c]? = some ch) (hr : edgeReply s.params t d dOk ch.regs = .done r sig) :
    exec (.edge c t d dOk) s = .next (s.commit c ch r sig) :=
  exec_done (i := .edge c t d dOk) h hr

/-- With no byte and no diagnostic, a channel's `OUT` and `DIAG` stay (R31, R32). -/
theorem Channel.record_silent (hbyte : sig.byte = none) (hdiag : sig.diagBits = 0#3) :
    ch.record k r sig = { ch with regs := r } := by
  simp [Channel.record, hbyte, hdiag]

/-- A transaction that emits and reports nothing writes registers alone. -/
theorem State.commit_silent (hbyte : sig.byte = none) (hdiag : sig.diagBits = 0#3) :
    s.commit c ch r sig = { s with
      channels := s.channels.set c { ch with regs := r }
      trace := s.trace ++ [outputsOf s.params c (some r) sig] } := by
  rw [State.commit, Channel.record_silent hbyte hdiag]

/-- One that also keeps its channel's registers only adds its outputs to the run. -/
theorem State.commit_unchanged (h : s.channels[c]? = some ch) (hbyte : sig.byte = none) (hdiag : sig.diagBits = 0#3) :
    s.commit c ch ch.regs sig = { s with trace := s.trace ++ [outputsOf s.params c (some ch.regs) sig] } := by
  rw [State.commit_silent hbyte hdiag, set_getElem?_self h]

/-- Settles O10: the reply of a disarmed EDGE is the registers as they are, with no signal. -/
theorem disarmedEdgeHasNoEffect : Obligations.DisarmedEdgeHasNoEffect := by
  unfold Obligations.DisarmedEdgeHasNoEffect
  intro s c t d dOk ch h ha
  rw [exec_edge_done h (edgeReply_of_disarmed ha), State.commit_unchanged h rfl rfl]
  simp [outputsOf, ha]

/-- Settles O15: the reply of a rejected EDGE is the registers as they are, with the verdict for its only signal. -/
theorem rejectedEdgeOnlyReportsItsVerdict : Obligations.RejectedEdgeOnlyReportsItsVerdict := by
  unfold Obligations.RejectedEdgeOnlyReportsItsVerdict
  intro s c t d dOk ch h ha hrejected
  have haccepts : (classify s.params t ch.regs).accepts = false := by
    rcases hrejected with hc | hc <;> rw [hc] <;> rfl
  rw [exec_edge_done h (edgeReply_of_rejected ha haccepts), State.commit_unchanged h rfl rfl]
  simp [outputsOf, ha]

/-- Settles O16: an edge that is too short is NOISE, so it is rejected (O15). -/
theorem noiseChangesNoRegister : Obligations.NoiseChangesNoRegister := by
  unfold Obligations.NoiseChangesNoRegister
  intro s u c t d dOk ch h ha hv hshort hu
  have hnoise : classify s.params t ch.regs = .noise := classify_of_short hv hshort
  cases (rejectedEdgeOnlyReportsItsVerdict s c t d dOk ch h ha (.inl hnoise)).symm.trans hu
  rfl

/-- One operation of a run, when its next state is known. -/
theorem runOps_cons {i : Instr} {u : State} (hu : exec i s = .next u) (rest : List Instr) :
    runOps (i :: rest) s = runOps rest u := by
  simp [runOps, hu]

/-- Settles O17, by induction on the run: a rejected edge only adds its verdict to the trace (O15), so the edges after it find
the parameters and the channel, with its reference time, that it found. -/
theorem rejectedRunIsMeasuredFromOneEdge : Obligations.RejectedRunIsMeasuredFromOneEdge := by
  unfold Obligations.RejectedRunIsMeasuredFromOneEdge
  intro edges
  induction edges with
  | nil => exact fun s c ch _ _ _ => ⟨s, rfl, rfl, rfl, by simp⟩
  | cons e edges ih =>
    intro s c ch h ha hrejected
    obtain ⟨he, hedges⟩ := List.forall_mem_cons.mp hrejected
    have hexec := rejectedEdgeOnlyReportsItsVerdict s c e.1 e.2.1 e.2.2 ch h ha he
    obtain ⟨u, hrun, hchannels, hrefusals, htrace⟩ := ih { s with trace := s.trace ++ [_] } c ch h ha hedges
    exact ⟨u, (runOps_cons hexec _).trans hrun, hchannels, hrefusals, by simpa using htrace⟩

/-- R116: every EDGE on an armed channel is carried out with its one verdict among its signals, whatever its sample is. -/
theorem edgeReply_verdict (p : Params) (t : Nat) (d dOk : Bool) (ha : r.armed = true) :
    ∃ r' sig, edgeReply p t d dOk r = .done r' sig ∧ sig.verdict = some (classify p t r) := by
  rcases edgeReply_cases p t d dOk r with
    ⟨hn, -⟩ | ⟨-, ⟨hc, he⟩ | ⟨hc, he⟩ | ⟨hc, he⟩ | ⟨hc, -, he⟩ | ⟨hc, -, he⟩⟩
  · simp [ha] at hn
  all_goals exact ⟨_, _, he, by rw [hc]⟩

/-- Settles O11: the verdict is that of `classify` (`edgeReply_verdict`), whose equations are the clauses. -/
theorem firstTestThatHoldsGivesTheVerdict : Obligations.FirstTestThatHoldsGivesTheVerdict := by
  unfold Obligations.FirstTestThatHoldsGivesTheVerdict
  intro s c t d dOk ch h ha
  obtain ⟨r, sig, hr, hverdict⟩ := edgeReply_verdict s.params t d dOk ha
  refine ⟨_, _, exec_edge_done h hr, rfl, rfl, ?_⟩
  rw [outputsOf_verdict, hverdict]
  refine ⟨fun hv => ?_, fun hv => ⟨fun hshort => ?_, fun hmin => ⟨fun hlong => ⟨fun hpos => ?_, fun hpos => ?_⟩,
    fun hmax => ⟨fun hpos hidle => ?_, fun hidle => ?_⟩⟩⟩⟩
  · rw [classify_of_absent hv]
  · rw [classify_of_short hv hshort]
  · rw [classify_of_long hv hmin hlong, if_neg hpos]
  · rw [classify_of_long hv hmin hlong, if_pos hpos]
  · rw [classify_of_inBand hv hmin hmax, if_pos ⟨hpos, hidle⟩]
  · rw [classify_of_inBand hv hmin hmax, if_neg fun h => hidle.elim (· h.1) (·.not_gt h.2)]

/-- Settles O24: the reply of a consumed frame-loss edge. -/
theorem frameLossEdgeMayBeConsumed : Obligations.FrameLossEdgeMayBeConsumed := by
  unfold Obligations.FrameLossEdgeMayBeConsumed
  intro s c t d dOk ch h ha hconsumed hc
  have hreply : edgeReply s.params t d dOk ch.regs =
      .done (ch.regs.resync.acceptAt t) { verdict := some .frameLoss, diagBits := dgFrameLoss } := by
    rw [edgeReply_of_frameLoss ha hc, frameLossEdge, hconsumed, if_neg Bool.false_ne_true]
  rw [exec_edge_done h hreply]
  simp [State.commit, Channel.record, outputsOf, Regs.acceptAt, Regs.resync, dgFrameLoss, ha]

end Sys2Proof.Machine
end

section
/-! ## A closed channel (spec/42_lifecycle.md R167, spec/70_reset_and_hazards.md R231) -/

namespace Sys2Proof.Machine

variable {p : Params} {s : State} {c : Nat} {ch : Channel} {r : Regs}

/-- On a closed, unarmed channel every operation but OPEN is refused or does nothing (R75, R101, R160, R171). -/
theorem replyOf_of_closed {i : Instr} (hclosed : r.phase = .closed) (ha : r.armed = false) (hi : i.mnemonic ≠ "OPEN") :
    (∃ why, replyOf p i r = .refuse why) ∨ replyOf p i r = .done r {} := by
  cases i with
  | nop c ign => exact .inr rfl
  | edge c t d dOk => exact .inr (edgeReply_of_disarmed ha)
  | openCh c ign => exact absurd rfl hi
  | closeCh c ign => exact .inl ⟨.closeNotOpen, by simp [replyOf, closeReply, hclosed]⟩
  | holdDone c ign => exact .inl ⟨.holdDoneOutOfPhase, by simp [replyOf, holdDoneReply, hclosed]⟩
  | reserved c ctl => exact .inl ⟨.reservedEncoding, rfl⟩

/-- One operation, not an OPEN of the closed channel, leaves that channel as it was. -/
theorem exec_keeps_closed {i : Instr} (h : s.channels[c]? = some ch) (hclosed : ch.regs.phase = .closed)
    (ha : ch.regs.armed = false) (hi : i.mnemonic = "OPEN" → i.chan ≠ c) :
    ∃ u, exec i s = .next u ∧ u.channels[c]? = some ch := by
  obtain ⟨u, hu, -⟩ := exec_withInputs i s []
  refine ⟨u, hu, ?_⟩
  by_cases hc : c = i.chan
  · subst hc
    rcases replyOf_of_closed hclosed ha (mt hi (not_not_intro rfl)) with ⟨why, hr⟩ | hr
    · cases (exec_refuse h hr).symm.trans hu
      exact h
    · cases (exec_done h hr).symm.trans hu
      rw [State.commit_unchanged h rfl rfl]
      exact h
  · rw [exec_getElem?_ne hu hc, h]

/-- Settles O42, by induction on the operations: each leaves the closed channel as it was (`exec_keeps_closed`). -/
theorem closedChannelWaitsForOpen : Obligations.ClosedChannelWaitsForOpen := by
  unfold Obligations.ClosedChannelWaitsForOpen
  intro ops
  induction ops with
  | nil => exact fun s c ch h _ _ _ => ⟨s, rfl, h⟩
  | cons i ops ih =>
    intro s c ch h hclosed ha hops
    obtain ⟨hi, hops⟩ := List.forall_mem_cons.mp hops
    obtain ⟨u, hu, hkept⟩ := exec_keeps_closed h hclosed ha hi
    rw [runOps_cons hu]
    exact ih u c ch hkept hclosed ha hops

end Sys2Proof.Machine
end

section
/-! ## The bits of a frame (spec/41_bit_accumulator.md R131-R134)

What a valid EDGE answers when its verdict is NORMAL, for each of the three places of a frame: the start bit, a data bit with
more to come, and the last data bit. -/

namespace Sys2Proof.Machine

variable {p : Params} {s : State} {c t : Nat} {d dOk : Bool} {ch : Channel} {r r' : Regs} {sig : Signals}

theorem accumulate_startBit (hl : p.legal = true) (hpos : r.position = 0) (d : Bool) :
    accumulate p d true r = ({ r with position := 1, acc := 0 }, {}) := by
  have hfirst : r.position < p.dataPositions := hpos ▸ (legal_bounds hl).1
  rw [accumulate, if_neg Bool.noConfusion, if_pos hpos, Regs.advance_withAcc hl hfirst, hpos]

theorem accumulate_dataBit (hl : p.legal = true) (hpos : 1 ≤ r.position) (hlt : r.position < p.dataPositions) (d : Bool) :
    accumulate p d true r = ({ r with position := r.position + 1, acc := setDataBit p r.acc r.position d }, {}) := by
  simp [accumulate, Nat.ne_of_gt hpos, hlt, Regs.advance_withAcc hl hlt]

theorem accumulate_lastBit (hl : p.legal = true) (hpos : r.position = p.dataPositions) (d : Bool) :
    accumulate p d true r = ({ r with position := 0, acc := 0 }, { byte := some (setDataBit p r.acc r.position d) }) := by
  have hdata : p.dataPositions ≠ 0 := Nat.ne_of_gt (legal_bounds hl).1
  simp [accumulate, hpos, hdata]

theorem edgeReply_startBit (hl : p.legal = true) (ha : r.armed = true) (hc : classify p t r = .normal)
    (hpos : r.position = 0) :
    edgeReply p t d true r =
      .done { r with position := 1, acc := 0, tlastValid := true, tlast := t } { verdict := some .normal } := by
  rw [edgeReply_of_normal ha hc]
  simp [accumulateEdge, accumulate_startBit (r := r.acceptAt t) hl hpos]

theorem edgeReply_dataBit (hl : p.legal = true) (ha : r.armed = true) (hc : classify p t r = .normal)
    (hpos : 1 ≤ r.position) (hlt : r.position < p.dataPositions) :
    edgeReply p t d true r =
      .done { r with position := r.position + 1, acc := setDataBit p r.acc r.position d, tlastValid := true, tlast := t }
        { verdict := some .normal } := by
  rw [edgeReply_of_normal ha hc]
  simp [accumulateEdge, accumulate_dataBit (r := r.acceptAt t) hl hpos hlt]

theorem edgeReply_lastBit (hl : p.legal = true) (ha : r.armed = true) (hc : classify p t r = .normal)
    (hpos : r.position = p.dataPositions) :
    edgeReply p t d true r =
      .done { r with position := 0, acc := 0, tlastValid := true, tlast := t }
        { byte := some (setDataBit p r.acc r.position d), verdict := some .normal } := by
  rw [edgeReply_of_normal ha hc]
  simp [accumulateEdge, accumulate_lastBit (r := r.acceptAt t) hl hpos]

/-! ### After a reset of the decoder -/

/-- R102, R131: after a reset of the decoder the next valid edge, at any time, is trusted and is a start bit. -/
theorem exec_edge_of_isReset (hl : s.params.legal = true) (h : s.channels[c]? = some ch) (ha : ch.regs.armed = true)
    (hreset : ch.regs.IsReset) (t : Nat) (d : Bool) :
    ∃ w e, exec (.edge c t d true) s = .next w ∧ w.trace = s.trace ++ [e] ∧ e.verdict = some .normal ∧
      w.channels = s.channels.set c { ch with
        regs := { ch.regs with position := 1, acc := 0, tlastValid := true, tlast := t } } := by
  obtain ⟨hpos, -, hvalid⟩ := hreset
  have hreply := edgeReply_startBit (t := t) (d := d) hl ha (classify_of_absent hvalid) hpos
  refine ⟨_, _, exec_edge_done h hreply, rfl, rfl, ?_⟩
  rw [State.commit_silent rfl rfl]

/-- Settles O41: arming leaves the channel reset (O40). -/
theorem firstEdgeAfterArmingOpensAFrame : Obligations.FirstEdgeAfterArmingOpensAFrame := by
  unfold Obligations.FirstEdgeAfterArmingOpensAFrame
  intro i s u c ch v hs hu hch hv hdisarmed harmed
  have hreset : v.regs.IsReset := stateIsResetBeforeArming i s u c ch v hs hu hch hv hdisarmed harmed
  exact exec_edge_of_isReset (by rw [exec_params hu]; exact hs.legal) hv harmed hreset

/-! ### After an error of the sample or of the position -/

/-- R136, R137: an event of ACCUMULATE comes with a resynchronisation. -/
theorem accumulate_resync (p : Params) (d dOk : Bool) (r : Regs) :
    (accumulate p d dOk r).2.diagBits = 0#3 ∨ (accumulate p d dOk r).1 = r.resync := by
  rcases accumulate_cases p d dOk r with
    ⟨-, he⟩ | ⟨-, -, he⟩ | ⟨-, -, -, he⟩ | ⟨-, -, -, he⟩ | ⟨-, -, -, he⟩ <;> rw [he]
  case inl | inr.inr.inr.inr => exact .inr rfl
  all_goals exact .inl rfl

theorem accumulateEdge_resynchronised {v : Verdict} {diag : DiagBits} (hdiag : diag &&& 0b110#3 = 0#3)
    (ha : r.armed = true) (hr : accumulateEdge p v diag d dOk r = .done r' sig) (hevent : sig.diagBits &&& 0b110#3 ≠ 0#3) :
    r'.IsReset ∧ r'.armed = true := by
  cases hr
  rcases accumulate_resync p d dOk r with h0 | hresync
  · simp [h0, hdiag] at hevent
  · rw [hresync]
    exact ⟨⟨rfl, rfl, rfl⟩, ha⟩

/-- The registers after an EDGE that reports an event of ACCUMULATE; the event of a frame loss alone is none. -/
theorem edgeReply_resynchronised (hr : edgeReply p t d dOk r = .done r' sig) (hevent : sig.diagBits &&& 0b110#3 ≠ 0#3) :
    r'.IsReset ∧ r'.armed = true := by
  rcases edgeReply_cases p t d dOk r with
    ⟨-, he⟩ | ⟨ha, ⟨-, he⟩ | ⟨-, he⟩ | ⟨-, he⟩ | ⟨-, -, he⟩ | ⟨-, -, he⟩⟩ <;> rw [he] at hr
  case inr.inr.inr.inl => exact accumulateEdge_resynchronised (r := r.acceptAt t) rfl ha hr hevent
  case inr.inr.inr.inr.inl => exact accumulateEdge_resynchronised (r := r.resync.acceptAt t) rfl ha hr hevent
  all_goals
    cases hr
    exact absurd rfl hevent

/-- An EDGE on an existing channel is never refused (R100). -/
theorem edgeReply_done (p : Params) (t : Nat) (d dOk : Bool) (r : Regs) : ∃ r' sig, edgeReply p t d dOk r = .done r' sig := by
  cases ha : r.armed with
  | false => exact ⟨_, _, edgeReply_of_disarmed ha⟩
  | true =>
    obtain ⟨r', sig, hr, -⟩ := edgeReply_verdict p t d dOk ha
    exact ⟨r', sig, hr⟩

/-- Settles O25: the event leaves the channel reset (`edgeReply_resynchronised`), as an arming does. -/
theorem edgeAfterAResynchronisationIsTrusted : Obligations.EdgeAfterAResynchronisationIsTrusted := by
  unfold Obligations.EdgeAfterAResynchronisationIsTrusted
  intro s u c t d dOk ch e hl h hu htrace hevent
  obtain ⟨r, sig, hr⟩ := edgeReply_done s.params t d dOk ch.regs
  cases (exec_edge_done h hr).symm.trans hu
  have he : outputsOf s.params c (some r) sig = e := by simpa using htrace
  rw [← he, outputsOf_diagBits] at hevent
  obtain ⟨hreset, ha⟩ := edgeReply_resynchronised hr hevent
  have hv := State.commit_getElem?_self _ r sig _ _ h
  have ⟨hpos, hacc, hvalid⟩ := hreset
  exact ⟨_, hv, hpos, hacc, hvalid, ha, exec_edge_of_isReset hl hv ha hreset⟩

end Sys2Proof.Machine
end

section
/-! ## A whole frame (spec/41_bit_accumulator.md R143)

The data edges of a frame by induction: in a frame at `position` = x the accumulator holds the x − 1 samples so far, and the
edges that remain put theirs above them. -/

namespace Sys2Proof.Machine

variable {p : Params} {s : State} {c t gap : Nat} {d : Bool} {ch : Channel} {r : Regs}

/-- R132 as arithmetic: a data bit is added above the bits so far. -/
theorem setDataBit_eq_add {acc x : Nat} (hl : p.legal = true) (h1 : 1 ≤ x) (hx : x ≤ p.dataPositions)
    (hacc : acc < 2 ^ (x - 1)) : setDataBit p acc x d = acc + 2 ^ (x - 1) * d.toNat := by
  unfold setDataBit
  cases d with
  | false => simp
  | true =>
    have hor := Nat.two_pow_add_eq_or_of_lt hacc 1
    rw [if_pos rfl, dataBit_fits hl h1 hx, Nat.or_comm]
    simpa [Nat.add_comm] using hor.symm

/-- An armed channel in the middle of a frame, whose last edge was at the clock value `t`. -/
structure Regs.InFrame (p : Params) (t : Nat) (r : Regs) : Prop where
  armed : r.armed = true
  tlastValid : r.tlastValid = true
  tlast_eq : r.tlast = busTime p t
  position_pos : 1 ≤ r.position
  position_le : r.position ≤ p.dataPositions
  acc_lt : r.acc < 2 ^ (r.position - 1)

/-- The registers after a start bit (R131). -/
def Regs.afterStartBit (p : Params) (t : Nat) (r : Regs) : Regs :=
  { r with position := 1, acc := 0, tlastValid := true, tlast := busTime p t }

/-- The registers after a data bit that is not the last (R132). -/
def Regs.afterDataBit (p : Params) (t : Nat) (d : Bool) (r : Regs) : Regs :=
  { r with position := r.position + 1, acc := setDataBit p r.acc r.position d, tlastValid := true, tlast := busTime p t }

/-- A channel after the frame that delivered `b`, with its last edge at the clock value `t` (R134). -/
def Channel.afterFrame (p : Params) (t b : Nat) (ch : Channel) : Channel :=
  { ch with
    regs := { ch.regs with position := 0, acc := 0, tlastValid := true, tlast := busTime p t }
    out := ch.out ++ [b] }

/-- Inside a frame an edge in the band is accepted (R103, R108). -/
theorem Regs.InFrame.classify_eq (h : r.InFrame p t) (hgap : InBand p gap) :
    classify p (busTime p (t + gap)) r = .normal := by
  obtain ⟨hmin, hmax, hfits⟩ := hgap
  have hdelta : delta p (busTime p (t + gap)) r.tlast = gap := by
    rw [h.tlast_eq, delta_busTime p (Nat.le_add_right t gap), Nat.add_sub_cancel_left, Nat.mod_eq_of_lt hfits]
  have hpos : r.position ≠ 0 := Nat.ne_of_gt h.position_pos
  rw [classify_of_inBand h.tlastValid (by rwa [hdelta]) (by rwa [hdelta]), if_neg fun h0 => hpos h0.1]

theorem Regs.inFrame_afterStartBit (hl : p.legal = true) (ha : r.armed = true) : (r.afterStartBit p t).InFrame p t where
  armed := ha
  tlastValid := rfl
  tlast_eq := rfl
  position_pos := le_rfl
  position_le := (legal_bounds hl).1
  acc_lt := Nat.one_pos

theorem Regs.InFrame.afterDataBit (hl : p.legal = true) (h : r.InFrame p t) (hlt : r.position < p.dataPositions) :
    (r.afterDataBit p (t + gap) d).InFrame p (t + gap) where
  armed := h.armed
  tlastValid := rfl
  tlast_eq := rfl
  position_pos := Nat.le_add_left 1 r.position
  position_le := hlt
  acc_lt := setDataBit_lt d hl h.position_pos hlt.le h.acc_lt

/-- The samples of the data bits to come, above the bits so far, make the same number before and after a data bit. -/
theorem Regs.InFrame.afterDataBit_value (hl : p.legal = true) (h : r.InFrame p t) (bits : List Bool) :
    (r.afterDataBit p gap d).acc + 2 ^ ((r.afterDataBit p gap d).position - 1) * packLsbFirst bits =
      r.acc + 2 ^ (r.position - 1) * packLsbFirst (d :: bits) := by
  have hpow : 2 ^ r.position = 2 ^ (r.position - 1) * 2 := by rw [← pow_succ, Nat.sub_add_cancel h.position_pos]
  calc setDataBit p r.acc r.position d + 2 ^ r.position * packLsbFirst bits
    _ = r.acc + 2 ^ (r.position - 1) * d.toNat + 2 ^ (r.position - 1) * 2 * packLsbFirst bits := by
      rw [setDataBit_eq_add hl h.position_pos h.position_le h.acc_lt, hpow]
    _ = r.acc + 2 ^ (r.position - 1) * (d.toNat + 2 * packLsbFirst bits) := by ring

theorem exec_startBit (hl : s.params.legal = true) (h : s.channels[c]? = some ch) (ha : ch.regs.armed = true)
    (hstart : StartAccepted s.params ch.regs (busTime s.params t)) :
    ∃ u, exec (.edge c (busTime s.params t) d true) s = .next u ∧ u.params = s.params ∧ u.refusals = s.refusals ∧
      u.channels = s.channels.set c { ch with regs := ch.regs.afterStartBit s.params t } := by
  have hreply := edgeReply_startBit (d := d) hl ha hstart.classify_eq hstart.1
  refine ⟨_, exec_edge_done h hreply, rfl, rfl, ?_⟩
  rw [State.commit_silent rfl rfl]
  rfl

theorem Regs.InFrame.exec_dataBit (hl : s.params.legal = true) (h : s.channels[c]? = some ch)
    (hf : ch.regs.InFrame s.params t) (hgap : InBand s.params gap) (hlt : ch.regs.position < s.params.dataPositions) :
    ∃ u, exec (.edge c (busTime s.params (t + gap)) d true) s = .next u ∧ u.params = s.params ∧
      u.refusals = s.refusals ∧
      u.channels = s.channels.set c { ch with regs := ch.regs.afterDataBit s.params (t + gap) d } := by
  have hreply := edgeReply_dataBit (d := d) hl hf.armed (hf.classify_eq hgap) hf.position_pos hlt
  refine ⟨_, exec_edge_done h hreply, rfl, rfl, ?_⟩
  rw [State.commit_silent rfl rfl]
  rfl

theorem Regs.InFrame.exec_lastBit (hl : s.params.legal = true) (h : s.channels[c]? = some ch)
    (hf : ch.regs.InFrame s.params t) (hgap : InBand s.params gap) (hlast : ch.regs.position = s.params.dataPositions) :
    ∃ u, exec (.edge c (busTime s.params (t + gap)) d true) s = .next u ∧ u.refusals = s.refusals ∧
      u.channels = s.channels.set c
        (ch.afterFrame s.params (t + gap) (setDataBit s.params ch.regs.acc ch.regs.position d)) := by
  have hreply := edgeReply_lastBit (d := d) hl hf.armed (hf.classify_eq hgap) hlast
  refine ⟨_, exec_edge_done h hreply, rfl, ?_⟩
  simp [Channel.record, Channel.afterFrame]

/-- The channel of an operation, when it is written whole. -/
theorem getElem?_of_channels_set {u : State} {x : Channel} (h : s.channels[c]? = some ch)
    (hu : u.channels = s.channels.set c x) : u.channels[c]? = some x := by
  obtain ⟨hc, -⟩ := List.getElem?_eq_some_iff.mp h
  simp [hu, hc]

theorem timeAfter_cons (t : Nat) (e : Nat × Bool) (edges : List (Nat × Bool)) :
    timeAfter t (e :: edges) = timeAfter (t + e.1) edges := by
  simp [timeAfter, Nat.add_assoc]

/-- The samples of the edges that remain of a frame land above those it has, by induction on these edges (R143). -/
theorem Regs.InFrame.runOps_timedEdges (hl : p.legal = true) (data : List (Nat × Bool)) :
    ∀ (s : State) (t : Nat) (ch : Channel), s.params = p → s.channels[c]? = some ch → ch.regs.InFrame p t →
      ch.regs.position + data.length = p.dataPositions + 1 → (∀ e ∈ data, InBand p e.1) →
      ∃ u, runOps (timedEdges p c t data) s = .next u ∧ u.refusals = s.refusals ∧
        u.channels = s.channels.set c (ch.afterFrame p (timeAfter t data)
          (ch.regs.acc + 2 ^ (ch.regs.position - 1) * packLsbFirst (data.map fun e => e.2))) := by
  induction data with
  | nil =>
    intro s t ch _ _ hf hlen _
    exact absurd hlen (Nat.ne_of_lt (Nat.lt_succ_of_le hf.position_le))
  | cons e data ih =>
    rintro s t ch rfl h hf hlen hband
    obtain ⟨he, hband⟩ := List.forall_mem_cons.mp hband
    rw [List.length_cons] at hlen
    rcases Nat.lt_or_eq_of_le hf.position_le with hlt | hlast
    · obtain ⟨v, hv, hparams, hrefusals, hchannels⟩ := hf.exec_dataBit (d := e.2) hl h he hlt
      obtain ⟨u, hrun, hu, huch⟩ := ih v (t + e.1) _ hparams (getElem?_of_channels_set h hchannels)
        (hf.afterDataBit hl hlt) (by simp only [Regs.afterDataBit]; omega) hband
      refine ⟨u, (runOps_cons hv _).trans hrun, hu.trans hrefusals, ?_⟩
      rw [huch, hchannels, List.set_set, timeAfter_cons, List.map_cons, hf.afterDataBit_value hl]
      rfl
    · obtain rfl : data = [] := List.length_eq_zero_iff.mp (by omega)
      obtain ⟨u, hu, hrefusals, hchannels⟩ := hf.exec_lastBit (d := e.2) hl h he hlast
      refine ⟨u, runOps_cons hu _, hrefusals, ?_⟩
      rw [hchannels, setDataBit_eq_add hl hf.position_pos hf.position_le hf.acc_lt]
      simp [timeAfter, packLsbFirst]

/-- Settles O57: the start edge opens a frame with an empty accumulator, and the data edges fill it
(`Regs.InFrame.runOps_timedEdges`). -/
theorem wellTimedFrameEmitsItsByte : Obligations.WellTimedFrameEmitsItsByte := by
  unfold Obligations.WellTimedFrameEmitsItsByte
  intro s c t start data ch hl h ha hstart hlen hband
  obtain ⟨v, hv, hparams, hrefusals, hchannels⟩ := exec_startBit (d := start) hl h ha hstart
  obtain ⟨u, hrun, hu, huch⟩ := Regs.InFrame.runOps_timedEdges hl data v t _ hparams
    (getElem?_of_channels_set h hchannels) (Regs.inFrame_afterStartBit hl ha)
    (by simp [Regs.afterStartBit, hlen, Nat.add_comm]) hband
  refine ⟨u, (runOps_cons hv _).trans hrun, ?_, hu.trans hrefusals⟩
  rw [huch, hchannels]
  simp [Channel.afterFrame, Regs.afterStartBit]

end Sys2Proof.Machine
end

section
/-! ## What ACCUMULATE does with one accepted edge (spec/41_bit_accumulator.md R131-R138)

What an EDGE answers where it resynchronises or starts a frame after a loss, beside the three places of a frame above, and the
next state that each of these answers gives. -/

namespace Sys2Proof.Machine

variable {p : Params} {s : State} {c t : Nat} {d : Bool} {ch : Channel} {r : Regs} {sig : Signals}

theorem accumulate_failedSample (p : Params) (d : Bool) (r : Regs) :
    accumulate p d false r = (r.resync, { diagBits := dgSampleFail }) := rfl

/-- R137: no case of the dispatch but the last takes a position above `DATA_POSITIONS`. -/
theorem accumulate_invalidPosition (h : p.dataPositions < r.position) (d : Bool) :
    accumulate p d true r = (r.resync, { diagBits := dgInvalidState }) := by
  have hpos : r.position ≠ 0 := Nat.ne_of_gt (Nat.zero_lt_of_lt h)
  rw [accumulate, if_neg Bool.noConfusion, if_neg hpos, if_neg h.not_gt, if_neg h.ne']

/-- R136, R138: a failed sample of an accepted edge resynchronises, and a frame loss is reported beside it. -/
theorem edgeReply_failedSample (ha : r.armed = true)
    (hc : classify p t r = .normal ∨ (classify p t r = .frameLoss ∧ p.frameLossEdgeIsStart = true)) :
    edgeReply p t d false r = .done (r.acceptAt t).resync
      { verdict := some (classify p t r), diagBits := if classify p t r = .frameLoss then 0b011#3 else 0b010#3 } := by
  rcases hc with hc | ⟨hc, hstart⟩
  · rw [edgeReply_of_normal ha hc]
    simp [accumulateEdge, accumulate_failedSample, dgSampleFail, hc, Regs.acceptAt, Regs.resync]
  · rw [edgeReply_of_frameLoss ha hc, frameLossEdge, if_pos hstart]
    simp [accumulateEdge, accumulate_failedSample, dgSampleFail, dgFrameLoss, hc, Regs.acceptAt, Regs.resync]

theorem edgeReply_invalidPosition (ha : r.armed = true) (hc : classify p t r = .normal)
    (h : p.dataPositions < r.position) :
    edgeReply p t d true r = .done (r.acceptAt t).resync { verdict := some .normal, diagBits := 0b100#3 } := by
  rw [edgeReply_of_normal ha hc]
  simp [accumulateEdge, accumulate_invalidPosition (r := r.acceptAt t) h, dgInvalidState]

/-- R138: after the resynchronisation of a frame loss the edge is a start bit. -/
theorem edgeReply_frameLossStart (hl : p.legal = true) (ha : r.armed = true) (hstart : p.frameLossEdgeIsStart = true)
    (hc : classify p t r = .frameLoss) :
    edgeReply p t d true r =
      .done { r with position := 1, acc := 0, tlastValid := true, tlast := t }
        { verdict := some .frameLoss, diagBits := 0b001#3 } := by
  rw [edgeReply_of_frameLoss ha hc, frameLossEdge, if_pos hstart]
  simp [accumulateEdge, accumulate_startBit (r := r.resync.acceptAt t) hl rfl, dgFrameLoss]

/-! ### The next states -/

/-- A transaction that emits nothing and reports a set of events (R32, R203). -/
theorem State.commit_report (hbyte : sig.byte = none) (hdiag : sig.diagBits ≠ 0#3) :
    s.commit c ch r sig = { s with
      channels := s.channels.set c { ch with regs := r, diag := ch.diag ++ [(s.trace.length, sig.diagBits)] }
      trace := s.trace ++ [outputsOf s.params c (some r) sig] } := by
  simp [State.commit, Channel.record, hbyte, hdiag]

/-- Settles O18: the reply of a start bit reports nothing, so it writes registers alone. -/
theorem startBitOpensAFrame : Obligations.StartBitOpensAFrame := by
  unfold Obligations.StartBitOpensAFrame
  intro s c t d ch hl h ha hc hpos
  rw [exec_edge_done h (edgeReply_startBit hl ha hc hpos), State.commit_silent rfl rfl]
  simp [outputsOf, ha]

/-- Settles O19: the accumulator's new value is that of `setDataBit`, which `testBit_setDataBit` gives bit by bit. -/
theorem dataBitLandsAtItsPlace : Obligations.DataBitLandsAtItsPlace := by
  unfold Obligations.DataBitLandsAtItsPlace
  intro s c t d ch hl h ha hc hpos hlt
  refine ⟨_, testBit_setDataBit d hl hpos hlt.le, ?_⟩
  rw [exec_edge_done h (edgeReply_dataBit hl ha hc hpos hlt), State.commit_silent rfl rfl]
  simp [outputsOf, ha]

/-- Settles O20: the byte is the accumulator with its last bit set as every other data bit is. -/
theorem lastDataBitEmitsTheByte : Obligations.LastDataBitEmitsTheByte := by
  unfold Obligations.LastDataBitEmitsTheByte
  intro s c t d ch hl h ha hc hpos
  refine ⟨_, testBit_setDataBit d hl (legal_bounds hl).1 le_rfl, ?_⟩
  rw [exec_edge_done h (edgeReply_lastBit hl ha hc hpos), State.commit, hpos]
  simp [Channel.record, outputsOf, ha]

/-- Settles O21: the reply of a failed sample reports a non-empty set of events, with a frame loss or without. -/
theorem samplingFailureResynchronises : Obligations.SamplingFailureResynchronises := by
  unfold Obligations.SamplingFailureResynchronises
  intro s c t d ch h ha hc bits
  have hreport : bits ≠ 0#3 := by
    unfold bits
    split_ifs <;> decide
  rw [exec_edge_done h (edgeReply_failedSample ha hc), State.commit_report rfl hreport]
  simp [bits, outputsOf, Regs.acceptAt, Regs.resync, ha]

/-- Settles O22: the reply at an invalid position resynchronises and reports one event. -/
theorem invalidPositionResynchronises : Obligations.InvalidPositionResynchronises := by
  unfold Obligations.InvalidPositionResynchronises
  intro s c t d ch h ha hc hpos
  rw [exec_edge_done h (edgeReply_invalidPosition ha hc hpos), State.commit_report rfl (by decide)]
  simp [outputsOf, Regs.acceptAt, Regs.resync, ha]

/-- Settles O23: the failed sample is that of O21. -/
theorem frameLossEdgeStartsANewFrame : Obligations.FrameLossEdgeStartsANewFrame := by
  unfold Obligations.FrameLossEdgeStartsANewFrame
  intro s c t d ch hl h ha hstart hc
  constructor
  · rw [exec_edge_done h (edgeReply_frameLossStart hl ha hstart hc), State.commit_report rfl (by decide)]
    simp [outputsOf, ha]
  · simpa [hc] using samplingFailureResynchronises s c t d ch h ha (.inr ⟨hc, hstart⟩)

/-- The edge of a frame loss, as the start bit of the frame after it. -/
theorem exec_frameLossStart (hl : s.params.legal = true) (h : s.channels[c]? = some ch) (ha : ch.regs.armed = true)
    (hstart : s.params.frameLossEdgeIsStart = true) (hc : classify s.params (busTime s.params t) ch.regs = .frameLoss) :
    ∃ u, exec (.edge c (busTime s.params t) d true) s = .next u ∧ u.params = s.params ∧ u.refusals = s.refusals ∧
      u.channels = s.channels.set c { ch with
        regs := ch.regs.afterStartBit s.params t
        diag := ch.diag ++ [(s.trace.length, 0b001#3)] } :=
  ⟨_, (frameLossEdgeStartsANewFrame s c _ d ch hl h ha hstart hc).1, rfl, rfl, rfl⟩

/-- Settles O58: the long edge is the start bit of a frame (O23), which the data edges fill as they fill any other
(`Regs.InFrame.runOps_timedEdges`). -/
theorem frameLossIsRecoveredFrom : Obligations.FrameLossIsRecoveredFrom := by
  unfold Obligations.FrameLossIsRecoveredFrom
  intro s c t start data ch hl h ha hstart hpos hv hmin hlong hlen hband
  have hlost : classify s.params (busTime s.params t) ch.regs = .frameLoss := by
    rw [classify_of_long hv hmin hlong, if_neg hpos]
  obtain ⟨v, hexec, hparams, hrefusals, hchannels⟩ := exec_frameLossStart (d := start) hl h ha hstart hlost
  obtain ⟨u, hrun, hu, huch⟩ := Regs.InFrame.runOps_timedEdges hl data v t _ hparams
    (getElem?_of_channels_set h hchannels) (Regs.inFrame_afterStartBit hl ha)
    (by simp [Regs.afterStartBit, hlen, Nat.add_comm]) hband
  refine ⟨u, (runOps_cons hexec _).trans hrun, ?_, hu.trans hrefusals⟩
  rw [huch, hchannels]
  simp [Channel.afterFrame, Regs.afterStartBit]

end Sys2Proof.Machine
end

section
/-! ## The count of state advances (spec/41_bit_accumulator.md R141)

The outputs of an operation move the count as the operation moves `position`: said of ACCUMULATE, then of every reply, then of
a step. -/

namespace Sys2Proof.Machine

variable {p : Params} {s u : State} {c n t : Nat} {i : Instr} {e : OpOutputs} {r r' : Regs} {sig : Signals}

/-- The operation after a run moves the count of its own channel. -/
theorem advancesOf_concat (p : Params) (c : Nat) (tr : List OpOutputs) (e : OpOutputs) :
    advancesOf p c (tr ++ [e]) = if e.chan = c then advance p (advancesOf p c tr) e else advancesOf p c tr := by
  simp [advancesOf]

theorem advance_of_disarmed (he : e.irqEnable ≠ some true) : advance p n e = 0 := if_pos he

/-- On an armed channel an edge that is not accepted, or no edge, keeps the count. -/
theorem advance_of_not_accepted (he : e.irqEnable = some true) (hv : ∀ v ∈ e.verdict, v.accepts = false) :
    advance p n e = n := by
  rw [advance, if_neg (not_not_intro he)]
  cases hverdict : e.verdict with
  | none => rfl
  | some v =>
    have hrejected := hv v hverdict
    cases v with
    | noise => rfl
    | spuriousStart => rfl
    | normal => cases hrejected
    | frameLoss => cases hrejected

theorem advance_of_normal (he : e.irqEnable = some true) (hv : e.verdict = some .normal) :
    advance p n e = if e.byte.isSome ∨ e.diagBits ≠ 0#3 then 0 else n + 1 := by
  rw [advance, if_neg (not_not_intro he), hv]

theorem advance_of_frameLoss (he : e.irqEnable = some true) (hv : e.verdict = some .frameLoss) :
    advance p n e = if p.frameLossEdgeIsStart ∧ e.diagBits = dgFrameLoss then 1 else 0 := by
  rw [advance, if_neg (not_not_intro he), hv]

/-- At `Start` an operation that is no EDGE moves nothing, armed or not. -/
theorem advance_zero_of_no_verdict (hv : e.verdict = none) : advance p 0 e = 0 := by
  by_cases he : e.irqEnable = some true
  · exact advance_of_not_accepted he (by simp [hv])
  · exact advance_of_disarmed he

/-- Where an operation keeps the registers and accepts no edge, the count stays at `position`: a disarmed channel is at `Start`
(R39). -/
theorem advance_of_position_kept (h : r.Inv p) (he : e.irqEnable = some r.armed)
    (hv : ∀ v ∈ e.verdict, v.accepts = false) :
    advance p r.position e = r.position := by
  cases ha : r.armed with
  | true => exact advance_of_not_accepted (ha ▸ he) hv
  | false => rw [advance_of_disarmed (e := e) (by simp [he, ha]), (h.isReset_of_disarmed ha).1]

/-! ### The replies -/

theorem accumulate_armed (p : Params) (bit ok : Bool) (r : Regs) : (accumulate p bit ok r).1.armed = r.armed := by
  rcases accumulate_cases p bit ok r with
    ⟨-, he⟩ | ⟨-, -, he⟩ | ⟨-, -, -, he⟩ | ⟨-, -, -, he⟩ | ⟨-, -, -, he⟩ <;> rw [he] <;> rfl

/-- ACCUMULATE returns to `Start` with its byte or its event, and advances by one without either (R131-R137). -/
theorem accumulate_position (hl : p.legal = true) (bit ok : Bool) (r : Regs) :
    (accumulate p bit ok r).1.position =
      if (accumulate p bit ok r).2.byte.isSome ∨ (accumulate p bit ok r).2.diagBits ≠ 0#3 then 0 else r.position + 1 := by
  have hdata := (legal_bounds hl).1
  rcases accumulate_cases p bit ok r with
    ⟨-, he⟩ | ⟨-, hpos, he⟩ | ⟨-, -, hlt, he⟩ | ⟨-, -, -, he⟩ | ⟨-, -, -, he⟩ <;> rw [he]
  · simp [dgSampleFail]
  · rw [Regs.advance_withAcc hl (by omega)]
    simp
  · rw [Regs.advance_withAcc hl hlt]
    simp
  · simp
  · simp [dgInvalidState]

/-- The outputs of an EDGE move the count from the old `position` to the new one. -/
theorem edgeReply_position (hl : p.legal = true) (h : r.Inv p) {d dOk : Bool} (hr : edgeReply p t d dOk r = .done r' sig)
    (c : Nat) : r'.position = advance p r.position (outputsOf p c (some r') sig) := by
  rcases edgeReply_cases p t d dOk r with
    ⟨-, he⟩ | ⟨ha, ⟨-, he⟩ | ⟨-, he⟩ | ⟨-, he⟩ | ⟨hc, hstart, -⟩ | ⟨-, hconsumed, he⟩⟩
  · cases he.symm.trans hr
    exact (advance_of_position_kept (e := outputsOf p c _ _) h rfl (by simp)).symm
  · cases he.symm.trans hr
    exact (advance_of_position_kept (e := outputsOf p c _ _) h rfl (by simp [Verdict.accepts])).symm
  · cases he.symm.trans hr
    exact (advance_of_position_kept (e := outputsOf p c _ _) h rfl (by simp [Verdict.accepts])).symm
  · cases he.symm.trans hr
    rw [advance_of_normal (by simp [accumulate_armed, ha]) rfl, accumulate_position hl]
    simp
  · cases dOk with
    | true =>
      cases (edgeReply_frameLossStart hl ha hstart hc).symm.trans hr
      rw [advance_of_frameLoss (by simp [ha]) rfl]
      simp [hstart, dgFrameLoss]
    | false =>
      cases (edgeReply_failedSample ha (.inr ⟨hc, hstart⟩)).symm.trans hr
      rw [advance_of_frameLoss (by simp [ha]) (by simp [hc])]
      simp [hc, dgFrameLoss]
  · cases he.symm.trans hr
    rw [advance_of_frameLoss (by simp [ha]) rfl]
    simp [hconsumed]

/-- The outputs of every operation move the count from the old `position` to the new one. -/
theorem replyOf_position (hl : p.legal = true) (h : r.Inv p) (hr : replyOf p i r = .done r' sig) (c : Nat) :
    r'.position = advance p r.position (outputsOf p c (some r') sig) := by
  cases i with
  | nop j ign =>
    cases hr
    exact (advance_of_position_kept (e := outputsOf p c _ _) h rfl (by simp)).symm
  | edge j t d dOk => exact edgeReply_position hl h hr c
  | openCh j ign =>
    rcases openReply_cases p r with ⟨-, he⟩ | ⟨hclosed, -, he⟩ | ⟨hclosed, -, he⟩ <;> cases he.symm.trans hr
    all_goals
      obtain ⟨hpos, -⟩ := h.not_open (by simp [hclosed])
      rw [hpos, advance_zero_of_no_verdict rfl]
      rfl
  | closeCh j ign =>
    rcases closeReply_cases r with ⟨-, he⟩ | ⟨-, he⟩ <;> cases he.symm.trans hr
    rw [advance_of_disarmed (by simp)]
    rfl
  | holdDone j ign =>
    rcases holdDoneReply_cases r with ⟨-, he⟩ | ⟨hphase, he⟩ | ⟨hphase, he⟩ <;> cases he.symm.trans hr
    all_goals
      obtain ⟨hpos, -⟩ := h.not_open (by simp [hphase])
      simp only [hpos]
      rw [advance_zero_of_no_verdict rfl]
  | reserved j ctl => cases hr

/-! ### The machine -/

/-- A refusal changes no register, and its outputs keep every count (R240). -/
theorem State.CountsAdvances.refuse (h : s.CountsAdvances) (hs : s.Inv) (j : Nat) (why : RefuseReason) :
    (s.refuse j why).CountsAdvances := by
  intro c ch hch
  have hregs : ch.regs.Inv s.params := hs.regs ch (List.mem_of_getElem? hch)
  rw [State.refuse_params, State.refuse_trace, advancesOf_concat, ← h c ch hch]
  split_ifs with hj
  · obtain rfl : j = c := hj
    have hirq : (outputsOf s.params j (s.regsAt j) {}).irqEnable = some ch.regs.armed := by
      simp [State.regsAt, show s.channels[j]? = some ch from hch]
    exact (advance_of_position_kept hregs hirq (by simp)).symm
  · rfl

/-- A transaction moves the count of its own channel with that channel's `position`, and no other. -/
theorem State.CountsAdvances.commit (h : s.CountsAdvances) (hs : s.Inv) {x : Channel} (hx : s.channels[i.chan]? = some x)
    (hr : replyOf s.params i x.regs = .done r sig) : (s.commit i.chan x r sig).CountsAdvances := by
  intro c ch hch
  rw [State.commit_params, State.commit_trace, advancesOf_concat, outputsOf_chan]
  split_ifs with hc
  · subst hc
    cases (State.commit_getElem?_self i.chan r sig x s hx).symm.trans hch
    rw [← h i.chan x hx]
    exact replyOf_position hs.legal (hs.regs x (List.mem_of_getElem? hx)) hr i.chan
  · exact h c ch ((State.commit_getElem?_ne i.chan r sig x s (Ne.symm hc)).symm.trans hch)

theorem State.CountsAdvances.exec (h : s.CountsAdvances) (hs : s.Inv) (hu : exec i s = .next u) : u.CountsAdvances := by
  rcases exec_next_cases hu with ⟨why, rfl⟩ | ⟨ch, r, sig, hch, hr, rfl⟩
  · exact h.refuse hs i.chan why
  · exact h.commit hs hch hr

/-- A byte is delivered on an existing channel at the last data position (R40). -/
theorem exec_byte_position (hl : s.params.legal = true) (hu : exec i s = .next u) (he : u.trace = s.trace ++ [e])
    (hbyte : e.byte.isSome = true) :
    ∃ ch, s.channels[e.chan]? = some ch ∧ ch.regs.position = s.params.dataPositions := by
  rcases exec_next_cases hu with ⟨why, rfl⟩ | ⟨ch, r, sig, hch, hr, rfl⟩
  · obtain rfl : outputsOf s.params i.chan (s.regsAt i.chan) {} = e := by simpa using he
    cases hbyte
  · obtain rfl : outputsOf s.params i.chan (some r) sig = e := by simpa using he
    have hreply : (replyOf s.params i ch.regs).byte.isSome = true := by rw [hr]; exact hbyte
    obtain ⟨t, d, -, -, hpos, -⟩ := (replyOf_byte_isSome_iff hl i).mp hreply
    exact ⟨ch, hch, hpos⟩

/-- A step leaves the machine as it is, or applies an operation taken from the queue. -/
theorem step_next_cases (hu : step s = .next u) : u = s ∨ ∃ i rest, exec i { s with inputs := rest } = .next u := by
  cases hin : s.inputs with
  | nil =>
    cases (step_of_inputs_nil hin).symm.trans hu
    exact .inl rfl
  | cons o rest => exact .inr ⟨_, rest, (step_of_inputs_cons hin).symm.trans hu⟩

/-- Settles O50: every operation moves the count with `position` (`replyOf_position`), and it delivers a byte only where
`position`, which is the count before it, is `DATA_POSITIONS` (`exec_byte_position`). -/
theorem positionCountsTheAdvancesSinceStart : Obligations.PositionCountsTheAdvancesSinceStart := by
  unfold Obligations.PositionCountsTheAdvancesSinceStart
  intro s t hs hcount ht
  rcases step_next_cases ht with rfl | ⟨i, rest, hexec⟩
  · exact ⟨hcount, fun e he => by simp at he⟩
  · have hqueue : State.CountsAdvances { s with inputs := rest } := hcount
    refine ⟨hqueue.exec (hs.withInputs rest) hexec, fun e he hbyte => ?_⟩
    obtain ⟨ch, hch, hpos⟩ := exec_byte_position (s := { s with inputs := rest }) hs.legal hexec he hbyte
    rw [← hcount e.chan ch hch, hpos]

end Sys2Proof.Machine
end

section
/-! ## The lifecycle operations (spec/42_lifecycle.md R160-R171)

One equation for each phase an operation can find, and one form of the next state for all that are carried out: they emit,
classify and report nothing, so they write registers and show the levels these have then. -/

namespace Sys2Proof.Machine

variable {p : Params} {r : Regs} {i : Instr} {s : State} {ch : Channel}

theorem openReply_of_not_closed (h : r.phase ≠ .closed) : openReply p r = .refuse .openNotClosed := if_pos h

theorem openReply_of_closed (h : r.phase = .closed) :
    openReply p r =
      if p.resetLinePresent then .done { r.initDecoder with resetOut := .idle, phase := .rstIdle } {}
      else .done { r.initDecoder with armed := true, phase := .opened } {} :=
  if_neg (not_not_intro h)

theorem closeReply_of_not_opened (h : r.phase ≠ .opened) : closeReply r = .refuse .closeNotOpen := if_pos h

theorem closeReply_of_opened (h : r.phase = .opened) :
    closeReply r = .done { Regs.initDecoder { r with armed := false } with phase := .closed } {} :=
  if_neg (not_not_intro h)

theorem holdDoneReply_of_rstIdle (h : r.phase = .rstIdle) :
    holdDoneReply r = .done { r with resetOut := .active, phase := .rstActive } {} := by
  simp only [holdDoneReply, h]

theorem holdDoneReply_of_rstActive (h : r.phase = .rstActive) :
    holdDoneReply r = .done { r with resetOut := .idle, armed := true, phase := .opened } {} := by
  simp only [holdDoneReply, h]

theorem holdDoneReply_out_of_phase (h : r.phase = .closed ∨ r.phase = .opened) :
    holdDoneReply r = .refuse .holdDoneOutOfPhase := by
  rcases h with h | h <;> simp only [holdDoneReply, h]

/-- An operation that is carried out without signals of its own writes registers and shows their levels (R30). -/
theorem exec_of_no_signals (h : s.channels[i.chan]? = some ch) (hr : replyOf s.params i ch.regs = .done r {}) :
    exec i s = .next { s with
      channels := s.channels.set i.chan { ch with regs := r }
      trace := s.trace ++ [{ chan := i.chan, byte := none, verdict := none, diagBits := 0#3, irqEnable := some r.armed,
                             resetLine := resetLineLevel s.params r.resetOut }] } := by
  rw [exec_done h hr, State.commit_silent rfl rfl]
  rfl

/-- An operation that its own rule refuses shows the levels as they are and sets the mark (R240). -/
theorem exec_of_refuse {why : RefuseReason} (h : s.channels[i.chan]? = some ch)
    (hr : replyOf s.params i ch.regs = .refuse why) :
    exec i s = .next { s with
      refusals := s.refusals ++ [why]
      trace := s.trace ++ [{ chan := i.chan, byte := none, verdict := none, diagBits := 0#3,
                             irqEnable := some ch.regs.armed,
                             resetLine := resetLineLevel s.params ch.regs.resetOut }] } := by
  rw [exec_refuse h hr, State.refuse_of_channel h]

/-- Settles O29: NOP answers the registers as they are, so its channel is written to hold what it holds. -/
theorem nopChangesNothing : Obligations.NopChangesNothing := by
  unfold Obligations.NopChangesNothing
  intro s c x ch h
  rw [exec_of_no_signals (i := .nop c x) h rfl, Instr.chan, set_getElem?_self h]

/-- Settles O30: the reply of OPEN where there is no line. -/
theorem openWithoutResetLineArmsAtOnce : Obligations.OpenWithoutResetLineArmsAtOnce := by
  unfold Obligations.OpenWithoutResetLineArmsAtOnce
  intro s c x ch h hclosed hline
  have hreply := (openReply_of_closed (p := s.params) hclosed).trans (if_neg (by simp [hline]))
  rw [exec_of_no_signals (i := .openCh c x) h hreply, resetLineLevel, if_neg (by simp [hline])]
  rfl

/-- Settles O31: the reply of OPEN where there is a line. -/
theorem openWithResetLineStartsThePulse : Obligations.OpenWithResetLineStartsThePulse := by
  unfold Obligations.OpenWithResetLineStartsThePulse
  intro s c x ch h hclosed hline
  have hreply := (openReply_of_closed (p := s.params) hclosed).trans (if_pos hline)
  rw [exec_of_no_signals (i := .openCh c x) h hreply, resetLineLevel, if_pos hline]
  rfl

/-- Settles O32: the reply of HOLD_DONE in the first phase of the pulse. -/
theorem firstHoldDoneDrivesTheLineActive : Obligations.FirstHoldDoneDrivesTheLineActive :=
  fun _ c x _ h hphase => exec_of_no_signals (i := .holdDone c x) h (holdDoneReply_of_rstIdle hphase)

/-- Settles O33: the reply of HOLD_DONE in the second phase of the pulse; a channel that is not open is reset (R39). -/
theorem secondHoldDoneArmsTheChannel : Obligations.SecondHoldDoneArmsTheChannel :=
  fun _ c x ch h hphase =>
    ⟨exec_of_no_signals (i := .holdDone c x) h (holdDoneReply_of_rstActive hphase),
     fun hs => (hs.regs ch (List.mem_of_getElem? h)).not_open (by simp [hphase])⟩

/-- Settles O34: the reply of CLOSE in an open channel. -/
theorem closeDiscardsThePartialByte : Obligations.CloseDiscardsThePartialByte :=
  fun _ c x _ h hphase => exec_of_no_signals (i := .closeCh c x) h (closeReply_of_opened hphase)

/-- Settles O35: each of the three operations is refused by its own rule. -/
theorem outOfContractLifecycleIsRefused : Obligations.OutOfContractLifecycleIsRefused :=
  fun _ c x _ h =>
    ⟨fun hphase => exec_of_refuse (i := .openCh c x) h (openReply_of_not_closed hphase),
     fun hphase => exec_of_refuse (i := .closeCh c x) h (closeReply_of_not_opened hphase),
     fun hphase => exec_of_refuse (i := .holdDone c x) h (holdDoneReply_out_of_phase hphase)⟩

end Sys2Proof.Machine
end

section
/-! ## The transitions of the lifecycle (spec/42_lifecycle.md R172, R174)

What an operation makes of `armed`, `phase` and `reset_out`, said once of every reply and needing no invariant: nothing, or one
row of the table of R172. -/

namespace Sys2Proof.Machine

variable {p : Params} {r r' : Regs} {sig : Signals} {i : Instr} {s u : State} {c : Nat} {ch v : Channel}

/-- The two registers agree in what belongs to the lifecycle. -/
structure SameLifecycle (r r' : Regs) : Prop where
  armed : r'.armed = r.armed
  phase : r'.phase = r.phase
  resetOut : r'.resetOut = r.resetOut

theorem SameLifecycle.trans {a b c : Regs} (hab : SameLifecycle a b) (hbc : SameLifecycle b c) : SameLifecycle a c :=
  ⟨hbc.armed.trans hab.armed, hbc.phase.trans hab.phase, hbc.resetOut.trans hab.resetOut⟩

/-- The lifecycle registers before and after an operation that is carried out: they stay, or move as a row of R172 says. A row
that does not write a register keeps it. -/
inductive LifecycleTransition (p : Params) (i : Instr) (r r' : Regs) : Prop where
  | stay (hsame : SameLifecycle r r')
  | openWithoutLine (hop : i.mnemonic = "OPEN") (hline : p.resetLinePresent = false) (hbefore : r.phase = .closed)
      (hafter : r'.phase = .opened) (harmed : r'.armed = true) (hlevel : r'.resetOut = r.resetOut)
  | openWithLine (hop : i.mnemonic = "OPEN") (hline : p.resetLinePresent = true) (hbefore : r.phase = .closed)
      (hafter : r'.phase = .rstIdle) (harmed : r'.armed = r.armed) (hlevel : r'.resetOut = .idle)
  | firstHoldDone (hop : i.mnemonic = "HOLD_DONE") (hbefore : r.phase = .rstIdle)
      (hafter : r'.phase = .rstActive) (harmed : r'.armed = r.armed) (hlevel : r'.resetOut = .active)
  | secondHoldDone (hop : i.mnemonic = "HOLD_DONE") (hbefore : r.phase = .rstActive)
      (hafter : r'.phase = .opened) (harmed : r'.armed = true) (hlevel : r'.resetOut = .idle)
  | close (hop : i.mnemonic = "CLOSE") (hbefore : r.phase = .opened)
      (hafter : r'.phase = .closed) (harmed : r'.armed = false) (hlevel : r'.resetOut = r.resetOut)

theorem accumulate_sameLifecycle (p : Params) (bit ok : Bool) (r : Regs) :
    SameLifecycle r (accumulate p bit ok r).1 := by
  rcases accumulate_cases p bit ok r with
    ⟨-, he⟩ | ⟨-, -, he⟩ | ⟨-, -, -, he⟩ | ⟨-, -, -, he⟩ | ⟨-, -, -, he⟩ <;> rw [he] <;> exact ⟨rfl, rfl, rfl⟩

/-- R172, R174: EDGE moves nothing of the lifecycle; what it writes before ACCUMULATE belongs to the decoder. -/
theorem edgeReply_sameLifecycle {t : Nat} {d dOk : Bool} (hr : edgeReply p t d dOk r = .done r' sig) :
    SameLifecycle r r' := by
  rcases edgeReply_cases p t d dOk r with
    ⟨-, he⟩ | ⟨-, ⟨-, he⟩ | ⟨-, he⟩ | ⟨-, he⟩ | ⟨-, -, he⟩ | ⟨-, -, he⟩⟩ <;> cases he.symm.trans hr
  case inr.inr.inr.inl =>
    exact .trans (b := r.acceptAt t) ⟨rfl, rfl, rfl⟩ (accumulate_sameLifecycle p d dOk _)
  case inr.inr.inr.inr.inl =>
    exact .trans (b := r.resync.acceptAt t) ⟨rfl, rfl, rfl⟩ (accumulate_sameLifecycle p d dOk _)
  all_goals exact ⟨rfl, rfl, rfl⟩

/-- Every operation that is carried out makes a transition of the table, or none. -/
theorem replyOf_transition (hr : replyOf p i r = .done r' sig) : LifecycleTransition p i r r' := by
  cases i with
  | nop c ign =>
    cases hr
    exact .stay ⟨rfl, rfl, rfl⟩
  | edge c t d dOk => exact .stay (edgeReply_sameLifecycle hr)
  | openCh c ign =>
    rcases openReply_cases p r with ⟨-, he⟩ | ⟨hclosed, hline, he⟩ | ⟨hclosed, hline, he⟩ <;> cases he.symm.trans hr
    · exact .openWithLine rfl hline hclosed rfl rfl rfl
    · exact .openWithoutLine rfl hline hclosed rfl rfl rfl
  | closeCh c ign =>
    rcases closeReply_cases r with ⟨-, he⟩ | ⟨hopened, he⟩ <;> cases he.symm.trans hr
    exact .close rfl hopened rfl rfl rfl
  | holdDone c ign =>
    rcases holdDoneReply_cases r with ⟨-, he⟩ | ⟨hidle, he⟩ | ⟨hactive, he⟩ <;> cases he.symm.trans hr
    · exact .firstHoldDone rfl hidle rfl rfl rfl
    · exact .secondHoldDone rfl hactive rfl rfl rfl
  | reserved c ctl => cases hr

/-- An operation leaves a channel as it was, or is addressed to it and makes a transition there. -/
theorem exec_transition (hu : exec i s = .next u) (h : s.channels[c]? = some ch) (hv : u.channels[c]? = some v) :
    v = ch ∨ i.chan = c ∧ LifecycleTransition s.params i ch.regs v.regs := by
  by_cases hc : c = i.chan
  · subst hc
    rcases exec_next_cases hu with ⟨why, rfl⟩ | ⟨x, r, sig, hx, hr, rfl⟩
    · exact .inl (Option.some.inj (hv.symm.trans h))
    · cases hx.symm.trans h
      cases (State.commit_getElem?_self i.chan r sig ch s h).symm.trans hv
      exact .inr ⟨rfl, replyOf_transition hr⟩
  · exact .inl (Option.some.inj (hv.symm.trans ((exec_getElem?_ne hu hc).trans h)))

/-- R39: in a channel with the invariants, a phase that is not open is not armed. -/
theorem Regs.Inv.disarmed_of_not_opened (h : r.Inv p) (hphase : r.phase ≠ .opened) : r.armed = false :=
  Bool.eq_false_iff.mpr (mt h.armed_iff.mp hphase)

/-- Settles O38: the transition that changed the phase is a row of the table (`exec_transition`), and a row that does not write
`armed` starts in a phase that is not open, so it is 0 there (R39). -/
theorem phaseChangesAreTheRowsOfTheTable : Obligations.PhaseChangesAreTheRowsOfTheTable := by
  unfold Obligations.PhaseChangesAreTheRowsOfTheTable
  intro i s u c ch v hs hu h hv hchanged
  have hregs : ch.regs.Inv s.params := hs.regs ch (List.mem_of_getElem? h)
  rcases exec_transition hu h hv with rfl | ⟨hc, htransition⟩
  · exact absurd rfl hchanged
  · refine ⟨hc, ?_⟩
    cases htransition with
    | stay hsame => exact absurd hsame.phase hchanged
    | openWithoutLine hop hline hbefore hafter harmed hlevel =>
      exact .inl ⟨hop, hline, hbefore, hafter, harmed, hlevel⟩
    | openWithLine hop hline hbefore hafter harmed hlevel =>
      have hdisarmed := hregs.disarmed_of_not_opened (by simp [hbefore])
      exact .inr (.inl ⟨hop, hline, hbefore, hafter, harmed.trans hdisarmed, hlevel⟩)
    | firstHoldDone hop hbefore hafter harmed hlevel =>
      have hdisarmed := hregs.disarmed_of_not_opened (by simp [hbefore])
      exact .inr (.inr (.inl ⟨hop, hbefore, hafter, harmed.trans hdisarmed, hlevel⟩))
    | secondHoldDone hop hbefore hafter harmed hlevel =>
      exact .inr (.inr (.inr (.inl ⟨hop, hbefore, hafter, harmed, hlevel⟩)))
    | close hop hbefore hafter harmed hlevel =>
      exact .inr (.inr (.inr (.inr ⟨hop, hbefore, hafter, harmed, hlevel⟩)))

/-- R174: the interrupt enable that an operation shows is `armed` of its channel after it, also when it is refused. -/
theorem exec_irqEnable {e : OpOutputs} (hu : exec i s = .next u) (h : s.channels[i.chan]? = some ch)
    (hv : u.channels[i.chan]? = some v) (he : u.trace = s.trace ++ [e]) : e.irqEnable = some v.regs.armed := by
  rcases exec_next_cases hu with ⟨why, rfl⟩ | ⟨x, r, sig, hx, -, rfl⟩
  · obtain rfl : outputsOf s.params i.chan (s.regsAt i.chan) {} = e := by simpa using he
    cases h.symm.trans hv
    simp [State.regsAt, h]
  · obtain rfl : outputsOf s.params i.chan (some r) sig = e := by simpa using he
    cases (State.commit_getElem?_self i.chan r sig x s hx).symm.trans hv
    rfl

/-- The rows that raise `armed`. -/
theorem LifecycleTransition.of_raised (h : LifecycleTransition p i r r') (hbefore : r.armed = false)
    (hafter : r'.armed = true) : i.mnemonic = "OPEN" ∨ i.mnemonic = "HOLD_DONE" ∧ r.phase = .rstActive := by
  have hchanged : r'.armed ≠ r.armed := by simp [hbefore, hafter]
  cases h with
  | stay hsame => exact absurd hsame.armed hchanged
  | openWithoutLine hop => exact .inl hop
  | openWithLine hop => exact .inl hop
  | firstHoldDone _ _ _ harmed => exact absurd harmed hchanged
  | secondHoldDone hop hphase => exact .inr ⟨hop, hphase⟩
  | close _ _ _ harmed => simp [harmed] at hafter

/-- The row that lowers `armed`. -/
theorem LifecycleTransition.of_lowered (h : LifecycleTransition p i r r') (hbefore : r.armed = true)
    (hafter : r'.armed = false) : i.mnemonic = "CLOSE" := by
  have hchanged : r'.armed ≠ r.armed := by simp [hbefore, hafter]
  cases h with
  | stay hsame => exact absurd hsame.armed hchanged
  | openWithoutLine _ _ _ _ harmed => simp [harmed] at hafter
  | openWithLine _ _ _ _ harmed => exact absurd harmed hchanged
  | firstHoldDone _ _ _ harmed => exact absurd harmed hchanged
  | secondHoldDone _ _ _ harmed => simp [harmed] at hafter
  | close hop => exact hop

/-- Settles O39: the record shows `armed` as it stands after the operation (`exec_irqEnable`), and only the rows of OPEN, of
the second HOLD_DONE and of CLOSE write it. -/
theorem interruptEnableFollowsArmed : Obligations.InterruptEnableFollowsArmed := by
  unfold Obligations.InterruptEnableFollowsArmed
  intro i s u ch v e hu h hv he
  refine ⟨exec_irqEnable hu h hv he, ?_⟩
  rcases exec_transition hu h hv with rfl | ⟨-, htransition⟩
  · refine ⟨fun hbefore hafter => ?_, fun hbefore hafter => ?_⟩ <;> simp [hbefore] at hafter
  · exact ⟨htransition.of_raised, htransition.of_lowered⟩

end Sys2Proof.Machine
end

section
/-! ## Errors and the byte sink (spec/60_exceptions.md R201)

A byte and an error never come from one EDGE: ACCUMULATE answers one or the other, and at `Start`, where a frame loss leaves
it, no byte. -/

namespace Sys2Proof.Machine

variable {p : Params} {t : Nat} {bit ok : Bool} {r r' : Regs} {sig : Signals}

/-- R136, R137: an event of ACCUMULATE comes without a byte. -/
theorem accumulate_byte_of_event (hevent : (accumulate p bit ok r).2.diagBits ≠ 0#3) :
    (accumulate p bit ok r).2.byte = none := by
  rcases accumulate_cases p bit ok r with
    ⟨-, he⟩ | ⟨-, -, he⟩ | ⟨-, -, -, he⟩ | ⟨-, -, -, he⟩ | ⟨-, -, -, he⟩ <;> rw [he] at hevent ⊢
  exact absurd rfl hevent

/-- R131, R136: at `Start` ACCUMULATE opens a frame or reports a failed sample. -/
theorem accumulate_byte_of_start (hpos : r.position = 0) : (accumulate p bit ok r).2.byte = none := by
  rcases accumulate_cases p bit ok r with
    ⟨-, he⟩ | ⟨-, -, he⟩ | ⟨-, hdata, -⟩ | ⟨-, hdata, -⟩ | ⟨-, -, -, he⟩
  case inr.inr.inl | inr.inr.inr.inl => omega
  all_goals rw [he]

/-- R201: an EDGE that reports an error, by its verdict or by an event, delivers no byte. -/
theorem edgeReply_byte_of_error (hr : edgeReply p t bit ok r = .done r' sig)
    (herror : sig.diagBits ≠ 0#3 ∨ sig.verdict ≠ some .normal) : sig.byte = none := by
  rcases edgeReply_cases p t bit ok r with
    ⟨-, he⟩ | ⟨-, ⟨-, he⟩ | ⟨-, he⟩ | ⟨-, he⟩ | ⟨-, -, he⟩ | ⟨-, -, he⟩⟩ <;> cases he.symm.trans hr
  case inr.inr.inr.inl =>
    rcases herror with hevent | hverdict
    · exact accumulate_byte_of_event (by simpa using hevent)
    · exact absurd rfl hverdict
  case inr.inr.inr.inr.inl => exact accumulate_byte_of_start (r := r.resync.acceptAt t) rfl
  all_goals rfl

/-- Settles O26: an EDGE is carried out with the lifecycle registers kept (`edgeReply_sameLifecycle`), and what it appends to
`OUT` is its byte, of which there is none on an error (`edgeReply_byte_of_error`). -/
theorem errorsStayInsideTheirEdge : Obligations.ErrorsStayInsideTheirEdge := by
  unfold Obligations.ErrorsStayInsideTheirEdge
  intro s c t d dOk ch h
  obtain ⟨r, sig, hr⟩ := edgeReply_done s.params t d dOk ch.regs
  have hsame : SameLifecycle ch.regs r := edgeReply_sameLifecycle hr
  refine ⟨_, _, _, exec_edge_done h hr, State.commit_getElem?_self _ r sig _ _ h, rfl, hsame.armed, hsame.phase,
    hsame.resetOut, rfl, fun herror => ?_⟩
  have hbyte : sig.byte = none := edgeReply_byte_of_error hr herror
  simp [hbyte]

end Sys2Proof.Machine
end

section
/-! ## Completion, refusal and power-on (spec/70_reset_and_hazards.md R230, R240, R242, R248)

What an operation makes of the refusal mark follows from its two ways to end (`exec_next_cases`). Which of the two it is, on a
channel that exists, is the lifecycle duty of R242. -/

namespace Sys2Proof.Machine

/-- R242: an operation's own rule carries it out when it keeps the lifecycle duty, and refuses it when it breaks it. -/
theorem replyOf_lifecycleDuty_cases (p : Params) (i : Instr) (r : Regs) :
    (LifecycleDuty i r ∧ ∃ r' sig, replyOf p i r = .done r' sig) ∨
    (¬ LifecycleDuty i r ∧ ∃ why, replyOf p i r = .refuse why) := by
  cases i with
  | nop c ign => exact .inl ⟨trivial, r, {}, rfl⟩
  | edge c t d dOk => exact .inl ⟨trivial, edgeReply_done p t d dOk r⟩
  | openCh c ign =>
    rcases openReply_cases p r with ⟨hopen, he⟩ | ⟨hclosed, -, he⟩ | ⟨hclosed, -, he⟩
    · exact .inr ⟨hopen, _, he⟩
    · exact .inl ⟨hclosed, _, _, he⟩
    · exact .inl ⟨hclosed, _, _, he⟩
  | closeCh c ign =>
    rcases closeReply_cases r with ⟨hnot, he⟩ | ⟨hopened, he⟩
    · exact .inr ⟨hnot, _, he⟩
    · exact .inl ⟨hopened, _, _, he⟩
  | holdDone c ign =>
    rcases holdDoneReply_cases r with ⟨hout, he⟩ | ⟨hidle, he⟩ | ⟨hactive, he⟩
    · have hduty : ¬ (r.phase = .rstIdle ∨ r.phase = .rstActive) := by rcases hout with h | h <;> simp [h]
      exact .inr ⟨hduty, _, he⟩
    · exact .inl ⟨.inl hidle, _, _, he⟩
    · exact .inl ⟨.inr hactive, _, _, he⟩
  | reserved c ctl => exact .inr ⟨not_false, .reservedEncoding, rfl⟩

/-- Settles O8: a next state there is (`exec_withInputs`), and a refusal and a transaction that is carried out each append one
record for the operation's channel and write no more than one channel in its place. -/
theorem everyOperationAnswersANextState : Obligations.EveryOperationAnswersANextState := by
  unfold Obligations.EveryOperationAnswersANextState
  intro i s
  obtain ⟨u, hu, -⟩ := exec_withInputs i s []
  rcases exec_next_cases hu with ⟨why, rfl⟩ | ⟨ch, r, sig, -, -, rfl⟩
  · exact ⟨_, _, hu, rfl, rfl, rfl, rfl, rfl⟩
  · exact ⟨_, _, hu, rfl, rfl, rfl, rfl, by simp⟩

/-- Settles O43: a transaction that is carried out leaves the list of reasons alone, and a refusal appends one reason and a
record without signals. -/
theorem refusalMarkIsNeverCleared : Obligations.RefusalMarkIsNeverCleared := by
  unfold Obligations.RefusalMarkIsNeverCleared
  intro i s u hu
  rcases exec_next_cases hu with ⟨why, rfl⟩ | ⟨ch, r, sig, -, -, rfl⟩
  · exact .inr ⟨why, _, rfl, rfl, rfl, rfl, rfl, rfl⟩
  · exact .inl rfl

/-- Settles O44: the operation's own rule decides (`replyOf_lifecycleDuty_cases`), and only a refusal makes the list of reasons
longer. -/
theorem lifecycleDutyIsWhatIsNotRefused : Obligations.LifecycleDutyIsWhatIsNotRefused := by
  unfold Obligations.LifecycleDutyIsWhatIsNotRefused
  intro i s u ch h hu
  rcases replyOf_lifecycleDuty_cases s.params i ch.regs with ⟨hkept, r, sig, hr⟩ | ⟨hbroken, why, hr⟩
  · cases (exec_done h hr).symm.trans hu
    exact iff_of_true hkept rfl
  · cases (exec_refuse h hr).symm.trans hu
    exact iff_of_false hbroken (by simp)

/-- Settles O47: every channel is one of `mem_powerOn`, whatever was drawn for it. -/
theorem powerOnValues : Obligations.PowerOnValues := by
  unfold Obligations.PowerOnValues
  intro p tl ro
  refine ⟨by simp [State.powerOn], rfl, fun ch h => ?_⟩
  obtain ⟨c, rfl⟩ := mem_powerOn h
  exact ⟨rfl, rfl, rfl, rfl, rfl, rfl, rfl⟩

end Sys2Proof.Machine
end
